-- ==== Sys2Proof/Word.lean ====
section
/-! DEFINITION. The word types of the core (00_scope.md R7, R8): bytes, 16-bit words, register indices. -/

namespace Sys2Proof

/-- A general register, a timer or a byte of memory (R21, R32, R33, R50). -/
abbrev Byte := BitVec 8

/-- An opcode word, `PC`, `I` or a stack entry (R24, R28, R29, R80). -/
abbrev Word := BitVec 16

/-- A 12-bit address field `nnn` (R81, R83). -/
abbrev Addr := BitVec 12

/-- A 4-bit field that is no register index: `n` (R81). -/
abbrev Nibble := BitVec 4

/-- A general register's index. R23: "A model may type the index as a 16-value type." -/
abbrev Reg := Fin 16

/-- A hexadecimal key, 0..15 (R35). -/
abbrev Key := Fin 16

/-- The register that doubles as the flag (R22, R27). -/
abbrev vf : Reg := 15

end Sys2Proof
end

