-- ==== Sys2Proof/Syntax.lean ====
section
/-! DEFINITION. The instructions: one constructor per row of spec/opcode_table.json, in the table's order
(30_encoding.md R85). Operands are the fields of R81. -/

namespace Sys2Proof

inductive Instr where
  /-- `00E0` CLS (R190). -/
  | cls
  /-- `00EE` RET (R172). -/
  | ret
  /-- `1nnn` JP nnn (R170). -/
  | jpNnn (nnn : Addr)
  /-- `2nnn` CALL nnn (R171). -/
  | callNnn (nnn : Addr)
  /-- `3xkk` SE Vx, kk (R174). -/
  | seVxKk (x : Reg) (kk : Byte)
  /-- `4xkk` SNE Vx, kk (R175). -/
  | sneVxKk (x : Reg) (kk : Byte)
  /-- `5xyn` SE Vx, Vy (R176); `n` is encoded and not read (R87). -/
  | seVxVy (x y : Reg) (n : Nibble)
  /-- `6xkk` LD Vx, kk (R140). -/
  | ldVxKk (x : Reg) (kk : Byte)
  /-- `7xkk` ADD Vx, kk (R141). -/
  | addVxKk (x : Reg) (kk : Byte)
  /-- `8xy0` LD Vx, Vy (R142). -/
  | ldVxVy (x y : Reg)
  /-- `8xy1` OR Vx, Vy (R152). -/
  | orVxVy (x y : Reg)
  /-- `8xy2` AND Vx, Vy (R153). -/
  | andVxVy (x y : Reg)
  /-- `8xy3` XOR Vx, Vy (R154). -/
  | xorVxVy (x y : Reg)
  /-- `8xy4` ADD Vx, Vy (R155). -/
  | addVxVy (x y : Reg)
  /-- `8xy5` SUB Vx, Vy (R156). -/
  | subVxVy (x y : Reg)
  /-- `8xy6` SHR Vx (R157). -/
  | shrVxVy (x y : Reg)
  /-- `8xy7` SUBN Vx, Vy (R158). -/
  | subnVxVy (x y : Reg)
  /-- `8xyE` SHL Vx (R159). -/
  | shlVxVy (x y : Reg)
  /-- `9xyn` SNE Vx, Vy (R177); `n` is encoded and not read (R87). -/
  | sneVxVy (x y : Reg) (n : Nibble)
  /-- `Annn` LD I, nnn (R210). -/
  | ldINnn (nnn : Addr)
  /-- `Bnnn` JP V0, nnn (R173). -/
  | jpV0Nnn (nnn : Addr)
  /-- `Cxkk` RND Vx, kk (R143). -/
  | rndVxKk (x : Reg) (kk : Byte)
  /-- `Dxyn` DRW Vx, Vy, n (R191). -/
  | drwVxVyN (x y : Reg) (n : Nibble)
  /-- `Ex9E` SKP Vx (R178). -/
  | skpVx (x : Reg)
  /-- `ExA1` SKNP Vx (R179). -/
  | sknpVx (x : Reg)
  /-- `Fx07` LD Vx, DT (R200). -/
  | ldVxDT (x : Reg)
  /-- `Fx0A` LD Vx, K (R203). -/
  | ldVxK (x : Reg)
  /-- `Fx15` LD DT, Vx (R201). -/
  | ldDTVx (x : Reg)
  /-- `Fx18` LD ST, Vx (R202). -/
  | ldSTVx (x : Reg)
  /-- `Fx1E` ADD I, Vx (R211). -/
  | addIVx (x : Reg)
  /-- `Fx29` LD F, Vx (R192). -/
  | ldFVx (x : Reg)
  /-- `Fx33` LD B, Vx (R212). -/
  | ldBVx (x : Reg)
  /-- `Fx55` LD [I], Vx (R213). -/
  | ldMIVx (x : Reg)
  /-- `Fx65` LD Vx, [I] (R214). -/
  | ldVxMI (x : Reg)
  deriving DecidableEq, Repr

end Sys2Proof
end

