-- ==== Sys2Proof/WellFormed.lean ====
section
/-! DEFINITION. Which instruction terms are instructions of a core. The operands' types already bound every field
(R23, R81), so the one check left is `STRICT_5_9` (30_encoding.md R87). -/

namespace Sys2Proof

/-- R87: under `STRICT_5_9` the words 5xyn and 9xyn with n ≠ 0 are no instructions; every other term is one. -/
def Instr.wellFormed (strict59 : Bool) : Instr → Bool
  | .seVxVy _ _ n => !strict59 || n == 0
  | .sneVxVy _ _ n => !strict59 || n == 0
  | .cls | .ret | .jpNnn _ | .callNnn _ | .seVxKk _ _ | .sneVxKk _ _ | .ldVxKk _ _ | .addVxKk _ _
  | .ldVxVy _ _ | .orVxVy _ _ | .andVxVy _ _ | .xorVxVy _ _ | .addVxVy _ _ | .subVxVy _ _ | .shrVxVy _ _
  | .subnVxVy _ _ | .shlVxVy _ _ | .ldINnn _ | .jpV0Nnn _ | .rndVxKk _ _ | .drwVxVyN _ _ _
  | .skpVx _ | .sknpVx _ | .ldVxDT _ | .ldVxK _ | .ldDTVx _ | .ldSTVx _ | .addIVx _ | .ldFVx _ | .ldBVx _
  | .ldMIVx _ | .ldVxMI _ => true

end Sys2Proof
end

