-- ==== Sys2Proof/Decode.lean ====
section
/-! DEFINITION. The decoder (30_encoding.md R80..R89, R91), total on any bytes, and the encoder written from the
same encodings. Every instruction is one 16-bit word stored high byte first (R55, R80). -/

namespace Sys2Proof

/-- Why the decoder refuses. -/
inductive DecodeError where
  /-- Fewer than two bytes were given; the core itself always fetches two (R112). -/
  | truncated
  /-- The word matches no row of the opcode map (R89); dispatch raises `UnknownOpcode` (R115). -/
  | unknownOpcode (w : Word)
  deriving DecidableEq, Repr

/-- R81: `group` = w[15:12]. -/
def groupOf (w : Word) : Fin 16 := (w.extractLsb' 12 4).toFin

/-- R81: `x` = w[11:8]. -/
def xOf (w : Word) : Reg := (w.extractLsb' 8 4).toFin

/-- R81: `y` = w[7:4]. -/
def yOf (w : Word) : Reg := (w.extractLsb' 4 4).toFin

/-- R81: `n` = w[3:0]. -/
def nOf (w : Word) : Nibble := w.extractLsb' 0 4

/-- R81: `kk` = w[7:0]. -/
def kkOf (w : Word) : Byte := w.extractLsb' 0 8

/-- R81: `nnn` = w[11:0]. -/
def nnnOf (w : Word) : Addr := w.extractLsb' 0 12

/-- Second level of group 0x0: the whole word (R86). -/
def decodeGroup0 (w : Word) : Option Instr :=
  if w = 0x00E0 then some .cls else if w = 0x00EE then some .ret else none

/-- Second level of group 0x8: by `n` (R88). -/
def decodeGroup8 (x y : Reg) (n : Nibble) : Option Instr :=
  if n = 0x0 then some (.ldVxVy x y)
  else if n = 0x1 then some (.orVxVy x y)
  else if n = 0x2 then some (.andVxVy x y)
  else if n = 0x3 then some (.xorVxVy x y)
  else if n = 0x4 then some (.addVxVy x y)
  else if n = 0x5 then some (.subVxVy x y)
  else if n = 0x6 then some (.shrVxVy x y)
  else if n = 0x7 then some (.subnVxVy x y)
  else if n = 0xE then some (.shlVxVy x y)
  else none

/-- Second level of group 0xE: by `kk` (R88). -/
def decodeGroupE (x : Reg) (kk : Byte) : Option Instr :=
  if kk = 0x9E then some (.skpVx x) else if kk = 0xA1 then some (.sknpVx x) else none

/-- Second level of group 0xF: by `kk` (R88). -/
def decodeGroupF (x : Reg) (kk : Byte) : Option Instr :=
  if kk = 0x07 then some (.ldVxDT x)
  else if kk = 0x0A then some (.ldVxK x)
  else if kk = 0x15 then some (.ldDTVx x)
  else if kk = 0x18 then some (.ldSTVx x)
  else if kk = 0x1E then some (.addIVx x)
  else if kk = 0x29 then some (.ldFVx x)
  else if kk = 0x33 then some (.ldBVx x)
  else if kk = 0x55 then some (.ldMIVx x)
  else if kk = 0x65 then some (.ldVxMI x)
  else none

/-- Groups 0x5 and 0x9 take any `n`, or only `n = 0` under `STRICT_5_9` (R87). -/
def decodeGroup59 (strict59 : Bool) (n : Nibble) (i : Instr) : Option Instr :=
  if strict59 = true ∧ n ≠ 0 then none else some i

/-- The two-level dispatch of R84 on the opcode map of R85. The last arm is group 0xF, the one group left. -/
def lookup (strict59 : Bool) (w : Word) : Option Instr :=
  match groupOf w with
  | 0x0 => decodeGroup0 w
  | 0x1 => some (.jpNnn (nnnOf w))
  | 0x2 => some (.callNnn (nnnOf w))
  | 0x3 => some (.seVxKk (xOf w) (kkOf w))
  | 0x4 => some (.sneVxKk (xOf w) (kkOf w))
  | 0x5 => decodeGroup59 strict59 (nOf w) (.seVxVy (xOf w) (yOf w) (nOf w))
  | 0x6 => some (.ldVxKk (xOf w) (kkOf w))
  | 0x7 => some (.addVxKk (xOf w) (kkOf w))
  | 0x8 => decodeGroup8 (xOf w) (yOf w) (nOf w)
  | 0x9 => decodeGroup59 strict59 (nOf w) (.sneVxVy (xOf w) (yOf w) (nOf w))
  | 0xA => some (.ldINnn (nnnOf w))
  | 0xB => some (.jpV0Nnn (nnnOf w))
  | 0xC => some (.rndVxKk (xOf w) (kkOf w))
  | 0xD => some (.drwVxVyN (xOf w) (yOf w) (nOf w))
  | 0xE => decodeGroupE (xOf w) (kkOf w)
  | _ => decodeGroupF (xOf w) (kkOf w)

/-- The decoder of one word (R82, R91): it reads the word and `STRICT_5_9`, nothing else. -/
def decodeWord (strict59 : Bool) (w : Word) : Except DecodeError Instr :=
  match lookup strict59 w with
  | some i => .ok i
  | none => .error (.unknownOpcode w)

/-- R55: the byte at the fetch address is the high byte, the next one the low byte. -/
def wordOfBytes (hi lo : Byte) : Word := hi ++ lo

/-- The decoder on any bytes: the instruction and the bytes after it, or the reason it refuses. -/
def decode (strict59 : Bool) : List Byte → Except DecodeError (Instr × List Byte)
  | hi :: lo :: rest =>
    match decodeWord strict59 (wordOfBytes hi lo) with
    | .ok i => .ok (i, rest)
    | .error e => .error e
  | [] => .error .truncated
  | [_] => .error .truncated

/-- A register index as a 4-bit field (R81). -/
def regField (r : Reg) : BitVec 4 := BitVec.ofFin r

/-- Format XYN of R81. -/
def packXYN (group : Nibble) (x y : Reg) (n : Nibble) : Word := group ++ regField x ++ regField y ++ n

/-- Format XKK of R81. -/
def packXKK (group : Nibble) (x : Reg) (kk : Byte) : Word := group ++ regField x ++ kk

/-- Format NNN of R81. -/
def packNNN (group : Nibble) (nnn : Addr) : Word := group ++ nnn

/-- The word of an instruction, from the patterns of R85. -/
def encode : Instr → Word
  | .cls => 0x00E0
  | .ret => 0x00EE
  | .jpNnn nnn => packNNN 0x1 nnn
  | .callNnn nnn => packNNN 0x2 nnn
  | .seVxKk x kk => packXKK 0x3 x kk
  | .sneVxKk x kk => packXKK 0x4 x kk
  | .seVxVy x y n => packXYN 0x5 x y n
  | .ldVxKk x kk => packXKK 0x6 x kk
  | .addVxKk x kk => packXKK 0x7 x kk
  | .ldVxVy x y => packXYN 0x8 x y 0x0
  | .orVxVy x y => packXYN 0x8 x y 0x1
  | .andVxVy x y => packXYN 0x8 x y 0x2
  | .xorVxVy x y => packXYN 0x8 x y 0x3
  | .addVxVy x y => packXYN 0x8 x y 0x4
  | .subVxVy x y => packXYN 0x8 x y 0x5
  | .shrVxVy x y => packXYN 0x8 x y 0x6
  | .subnVxVy x y => packXYN 0x8 x y 0x7
  | .shlVxVy x y => packXYN 0x8 x y 0xE
  | .sneVxVy x y n => packXYN 0x9 x y n
  | .ldINnn nnn => packNNN 0xA nnn
  | .jpV0Nnn nnn => packNNN 0xB nnn
  | .rndVxKk x kk => packXKK 0xC x kk
  | .drwVxVyN x y n => packXYN 0xD x y n
  | .skpVx x => packXKK 0xE x 0x9E
  | .sknpVx x => packXKK 0xE x 0xA1
  | .ldVxDT x => packXKK 0xF x 0x07
  | .ldVxK x => packXKK 0xF x 0x0A
  | .ldDTVx x => packXKK 0xF x 0x15
  | .ldSTVx x => packXKK 0xF x 0x18
  | .addIVx x => packXKK 0xF x 0x1E
  | .ldFVx x => packXKK 0xF x 0x29
  | .ldBVx x => packXKK 0xF x 0x33
  | .ldMIVx x => packXKK 0xF x 0x55
  | .ldVxMI x => packXKK 0xF x 0x65

/-- A row of the opcode map: a word selects it when `w AND mask = pattern` (R85). -/
structure OpcodeRow where
  mask : Word
  pattern : Word
  deriving DecidableEq, Repr

/-- R85: the word `w` selects the row. -/
abbrev OpcodeRow.selects (r : OpcodeRow) (w : Word) : Prop := w &&& r.mask = r.pattern

/-- R85, R87: the mask of rows 7 and 19. -/
def mask59 (strict59 : Bool) : Word := if strict59 then 0xF00F else 0xF000

/-- The row of R85 that an instruction belongs to. -/
def Instr.row (strict59 : Bool) : Instr → OpcodeRow
  | .cls => ⟨0xFFFF, 0x00E0⟩
  | .ret => ⟨0xFFFF, 0x00EE⟩
  | .jpNnn _ => ⟨0xF000, 0x1000⟩
  | .callNnn _ => ⟨0xF000, 0x2000⟩
  | .seVxKk _ _ => ⟨0xF000, 0x3000⟩
  | .sneVxKk _ _ => ⟨0xF000, 0x4000⟩
  | .seVxVy _ _ _ => ⟨mask59 strict59, 0x5000⟩
  | .ldVxKk _ _ => ⟨0xF000, 0x6000⟩
  | .addVxKk _ _ => ⟨0xF000, 0x7000⟩
  | .ldVxVy _ _ => ⟨0xF00F, 0x8000⟩
  | .orVxVy _ _ => ⟨0xF00F, 0x8001⟩
  | .andVxVy _ _ => ⟨0xF00F, 0x8002⟩
  | .xorVxVy _ _ => ⟨0xF00F, 0x8003⟩
  | .addVxVy _ _ => ⟨0xF00F, 0x8004⟩
  | .subVxVy _ _ => ⟨0xF00F, 0x8005⟩
  | .shrVxVy _ _ => ⟨0xF00F, 0x8006⟩
  | .subnVxVy _ _ => ⟨0xF00F, 0x8007⟩
  | .shlVxVy _ _ => ⟨0xF00F, 0x800E⟩
  | .sneVxVy _ _ _ => ⟨mask59 strict59, 0x9000⟩
  | .ldINnn _ => ⟨0xF000, 0xA000⟩
  | .jpV0Nnn _ => ⟨0xF000, 0xB000⟩
  | .rndVxKk _ _ => ⟨0xF000, 0xC000⟩
  | .drwVxVyN _ _ _ => ⟨0xF000, 0xD000⟩
  | .skpVx _ => ⟨0xF0FF, 0xE09E⟩
  | .sknpVx _ => ⟨0xF0FF, 0xE0A1⟩
  | .ldVxDT _ => ⟨0xF0FF, 0xF007⟩
  | .ldVxK _ => ⟨0xF0FF, 0xF00A⟩
  | .ldDTVx _ => ⟨0xF0FF, 0xF015⟩
  | .ldSTVx _ => ⟨0xF0FF, 0xF018⟩
  | .addIVx _ => ⟨0xF0FF, 0xF01E⟩
  | .ldFVx _ => ⟨0xF0FF, 0xF029⟩
  | .ldBVx _ => ⟨0xF0FF, 0xF033⟩
  | .ldMIVx _ => ⟨0xF0FF, 0xF055⟩
  | .ldVxMI _ => ⟨0xF0FF, 0xF065⟩

/-- The 34 rows of R85, in its order. -/
def opcodeRows (strict59 : Bool) : List OpcodeRow :=
  [⟨0xFFFF, 0x00E0⟩, ⟨0xFFFF, 0x00EE⟩, ⟨0xF000, 0x1000⟩, ⟨0xF000, 0x2000⟩, ⟨0xF000, 0x3000⟩, ⟨0xF000, 0x4000⟩,
   ⟨mask59 strict59, 0x5000⟩, ⟨0xF000, 0x6000⟩, ⟨0xF000, 0x7000⟩]
  ++ [⟨0xF00F, 0x8000⟩, ⟨0xF00F, 0x8001⟩, ⟨0xF00F, 0x8002⟩, ⟨0xF00F, 0x8003⟩, ⟨0xF00F, 0x8004⟩, ⟨0xF00F, 0x8005⟩,
   ⟨0xF00F, 0x8006⟩, ⟨0xF00F, 0x8007⟩, ⟨0xF00F, 0x800E⟩]
  ++ [⟨mask59 strict59, 0x9000⟩, ⟨0xF000, 0xA000⟩, ⟨0xF000, 0xB000⟩, ⟨0xF000, 0xC000⟩, ⟨0xF000, 0xD000⟩,
   ⟨0xF0FF, 0xE09E⟩, ⟨0xF0FF, 0xE0A1⟩]
  ++ [⟨0xF0FF, 0xF007⟩, ⟨0xF0FF, 0xF00A⟩, ⟨0xF0FF, 0xF015⟩, ⟨0xF0FF, 0xF018⟩, ⟨0xF0FF, 0xF01E⟩, ⟨0xF0FF, 0xF029⟩,
   ⟨0xF0FF, 0xF033⟩, ⟨0xF0FF, 0xF055⟩, ⟨0xF0FF, 0xF065⟩]

/-- The word whose bits are `w` as the opcode table numbers them, when the table gives the row `nbits` bits: every
bit above `nbits` is 0, and an instruction has 16 bits (R80). -/
def tableWord (nbits w : Nat) : Word := BitVec.ofNat 16 (w % 2 ^ nbits)

/-- The bytes of a word as memory holds them, high byte first (R55). -/
def bytesOfWord (w : Word) : List Byte := [w.extractLsb' 8 8, w.extractLsb' 0 8]

/-- The decoder on the word of an opcode-table row, laid out as memory holds it. The table's masks are those of
`STRICT_5_9` = false, R5's default (log 11). -/
def decodeTableWord (nbits w : Nat) : Option Instr :=
  match decode false (bytesOfWord (tableWord nbits w)) with
  | .ok (i, _) => some i
  | .error _ => none

end Sys2Proof
end

