-- ==== Sys2Proof/Config.lean ====
section
/-! DEFINITION. The configuration record of 00_scope.md R5, its fixed values, and the one free value
(the `rnd` byte the host supplies to a step). -/

namespace Sys2Proof

/-- The parameters of R5 that the spec leaves to a model argument: the two OPEN ones (92_eei_decisions.md P1, P2)
and the five Boolean ones (P3..P7). The parameters with one fixed value are the definitions below. -/
structure Config where
  /-- `STACK_DEPTH`, "OPEN, an integer in 12..16". -/
  stackDepth : Nat
  /-- `GLYPHS`, 16 glyphs of 5 bytes, glyph `d` at index `5 * d`. -/
  glyphs : Vector Byte 80
  /-- `SHIFT_USES_VY` (R157, R159). -/
  shiftUsesVy : Bool
  /-- `LOGIC_RESETS_VF` (R151). -/
  logicResetsVf : Bool
  /-- `BNNN_USES_VX` (R173). -/
  bnnnUsesVx : Bool
  /-- `LOADSTORE_INCREMENTS_I` (R213, R214). -/
  loadStoreIncrementsI : Bool
  /-- `STRICT_5_9` (R87). -/
  strict59 : Bool
  deriving DecidableEq, Repr

namespace Config

/-- R5: `STACK_DEPTH` lies in 12..16. -/
abbrev Legal (c : Config) : Prop := 12 ≤ c.stackDepth ∧ c.stackDepth ≤ 16

/-- `MEM_SIZE` (R5, R50). -/
abbrev memSize : Nat := 4096

/-- `ROM_BASE` (R5, R63). -/
abbrev romBase : Nat := 0x200

/-- `ROM_MAX` (R5, R63): 4096 - 0x200. -/
abbrev romMax : Nat := 3584

/-- `FONT_BASE` (R5, R53; decision D24). -/
abbrev fontBase : Nat := 0x050

/-- `DISPLAY_W` (R5, R34). -/
abbrev displayW : Nat := 64

/-- `DISPLAY_H` (R5, R34). -/
abbrev displayH : Nat := 32

/-- FREE VALUE (log 4). The `rnd` argument of the steps that `Sys2Proof.Machine.step` takes: the spec gives no
generator and admits any byte (R118, D14, U15). No body: nothing can be proved about a value of it. -/
opaque freeRnd : Nat → Byte

end Config

end Sys2Proof
end

