-- ==== Sys2Proof/Machine/Defaults.lean ====
section
/-! DEFINITION. The configuration the state after reset carries: the defaults of 00_scope.md R5 and
93_implementation_defined.md G1, and one value for the parameter the spec leaves open (log 2, log 3). -/

namespace Sys2Proof

/-- PRESUMED (log 3; the spec marks it as general knowledge). G1: the conventional font, the spec's default value of
`GLYPHS`. -/
def Config.conventionalGlyphs : Vector Byte 80 :=
  (#v[0xF0, 0x90, 0x90, 0x90, 0xF0,  0x20, 0x60, 0x20, 0x20, 0x70,
     0xF0, 0x10, 0xF0, 0x80, 0xF0,  0xF0, 0x10, 0xF0, 0x10, 0xF0,
     0x90, 0x90, 0xF0, 0x10, 0x10,  0xF0, 0x80, 0xF0, 0x10, 0xF0,
     0xF0, 0x80, 0xF0, 0x90, 0xF0,  0xF0, 0x10, 0x20, 0x40, 0x40] : Vector Byte 40)
  ++
  (#v[0xF0, 0x90, 0xF0, 0x90, 0xF0,  0xF0, 0x90, 0xF0, 0x10, 0xF0,
     0xF0, 0x90, 0xF0, 0x90, 0x90,  0xE0, 0x90, 0xE0, 0x90, 0xE0,
     0xF0, 0x80, 0x80, 0x80, 0xF0,  0xE0, 0x90, 0x90, 0x90, 0xE0,
     0xF0, 0x80, 0xF0, 0x80, 0xF0,  0xF0, 0x80, 0xF0, 0x80, 0x80] : Vector Byte 40)

/-- R5's defaults; `STACK_DEPTH` has none. DESIGN CHOICE (log 2): 16, the depth 95_test_vectors.md uses (D6). No
statement of this package rests on the 16. -/
def Config.conventional : Config where
  stackDepth := 16
  glyphs := Config.conventionalGlyphs
  shiftUsesVy := false
  logicResetsVf := false
  bnnnUsesVx := false
  loadStoreIncrementsI := false
  strict59 := false

end Sys2Proof
end

