-- ==== Sys2Proof/Machine/State.lean ====
section
/-! DEFINITION. The state of the core (10_state.md R20, R40), the fault record (60_exceptions.md R220, R221), and the
reasons a step or a transaction can stop. Plain data only. -/

namespace Sys2Proof.Machine

/-- Memory: the cells that differ from the reset contents, addresses strictly rising (log 9; `Memory.wf` in Ops.lean). -/
abbrev Memory := List Host.Cell

/-- The framebuffer (R34): 32 rows of 64 one-bit pixels; the pixel in column x of row y is bit x of entry y. -/
abbrev Framebuffer := Vector (BitVec 64) 32

/-- The fault kinds of R220, with the codes of decision D20. -/
inductive FaultKind where
  /-- Code 1, raised by `load` when the ROM is longer than 3584 bytes (R63). -/
  | romTooLarge
  /-- Code 2, raised by dispatch when the word matches no row (R115). -/
  | unknownOpcode
  /-- Code 3, raised by CALL on a full stack (R171). -/
  | stackOverflow
  /-- Code 4, raised by RET on an empty stack (R172). -/
  | stackUnderflow
  /-- Code 5: unreachable, since a register index is always in 0..15 (R23). -/
  | invalidRegister
  /-- Code 6, raised by SKP and SKNP when V[x] > 15 (R178, R179). -/
  | invalidKey
  deriving DecidableEq, Repr

/-- The numeric code of a kind (R220, decision D20). -/
def FaultKind.code : FaultKind → Nat
  | .romTooLarge => 1
  | .unknownOpcode => 2
  | .stackOverflow => 3
  | .stackUnderflow => 4
  | .invalidRegister => 5
  | .invalidKey => 6

/-- The fault record of R221: the kind, the opcode of the faulting instruction and its fetch address. -/
structure FaultRecord where
  kind : FaultKind
  word : Word
  addr : Word
  deriving DecidableEq, Repr

/-- The state of R20, and four fields of the model's own: `cfg` (log 1), `rnd` and `rndIndex` (log 4) and `loadOpen`
(log 8). -/
structure State where
  /-- The configuration of R5, never written (log 1). -/
  cfg : Config
  /-- V0..VF (R21). -/
  v : Vector Byte 16
  /-- The index register `I` (R28). -/
  i : Word
  /-- The program counter, stored unreduced (R24, R26). -/
  pc : Word
  /-- The return-address stack: STACK_DEPTH entries, the oldest at index 0 (R29). -/
  stack : List Word
  /-- The number of return addresses held (R29). -/
  sp : Nat
  /-- The delay timer (R32). -/
  dt : Byte
  /-- The sound timer (R33). -/
  st : Byte
  /-- The 4096 bytes of memory (R50), read and written through Ops.lean only. -/
  mem : Memory
  /-- The framebuffer (R34). -/
  fb : Framebuffer
  /-- The key states, true when pressed (R35). -/
  keys : Vector Bool 16
  /-- The pending key wait: none, or its target register (R36). -/
  wait : Option Reg
  /-- The key states the core saw at its last look (R37). -/
  prevKeys : Vector Bool 16
  /-- The fault, once one was raised (R38). -/
  fault : Option FaultRecord
  /-- The `rnd` argument of the step being taken (R118). -/
  rnd : Byte
  /-- Which free byte the next step of the fixed form `step` gets (log 4). -/
  rndIndex : Nat
  /-- Whether `load` is still admitted: no `load`, `step` or `tick` so far (R254, log 8). -/
  loadOpen : Bool
  deriving DecidableEq, Repr

/-- Why a step or a tick has no transition. -/
inductive Fault where
  /-- Raised by `stepWith` and `tick` on a core whose `fault` is set: it has no transition (R110, R204, R222; U13
  "stuck"). SAFE: the model stops where the spec stops (log 6). -/
  | halted (record : FaultRecord)
  deriving DecidableEq, Repr

/-- Why a transaction of the host has no meaning (log 14). No step ends in one of these. -/
inductive Refusal where
  /-- Raised by an arm of `exec` whose instruction has no meaning yet; no arm does. SAFE: the model stops. -/
  | notModelled (mnemonic : String)
  /-- Raised by `setKey` and `isPressed` on a code outside 0..15 (R206, R207; D26): the spec refuses the call and the
  core's state is unchanged. SAFE. -/
  | keyOutOfRange
  /-- Raised by `isOn` on a pixel outside 64 x 32 (R193; D26): the spec refuses the call. SAFE. -/
  | pixelOutOfRange
  /-- Raised by `load` in any state but the one right after construction (R254; D22): the spec refuses the call. SAFE. -/
  | loadNotAdmitted
  deriving DecidableEq, Repr

/-- The constructed core of R40 and R250 for a configuration: after `load_glyphs`, before `load` (R251). Memory lists
nothing: an unlisted address reads as the reset contents. The reset values of the model's own fields are log 4 and log 8. -/
def State.resetWith (c : Config) : State where
  cfg := c
  v := Vector.replicate 16 0
  i := 0
  pc := 0x200
  stack := List.replicate c.stackDepth 0
  sp := 0
  dt := 0
  st := 0
  mem := []
  fb := Vector.replicate 32 0
  keys := Vector.replicate 16 false
  wait := none
  prevKeys := Vector.replicate 16 false
  fault := none
  rnd := 0
  rndIndex := 0
  loadOpen := true

/-- The machine right after reset, with the configuration of Defaults.lean (log 2, log 3). -/
def State.reset : State := State.resetWith Config.conventional

end Sys2Proof.Machine
end

