-- ==== Sys2Proof/Machine/Ops.lean ====
section
/-! DEFINITION. The named operations on memory, registers, stack, framebuffer and keys (00_scope.md R9), and raising a
fault, which is all that taking an exception is on this core (60_exceptions.md R222). There is no return from a fault
(R224), so no operation for one. -/

namespace Sys2Proof.Machine

/-! ### Memory -/

/-- What an unlisted address reads as: the reset contents, `GLYPHS` in the glyph table and 0 elsewhere (R40, R53, R64;
log 9). -/
def resetByte (c : Config) (a : Nat) : Byte :=
  if h : Config.fontBase ≤ a ∧ a < Config.fontBase + 80 then c.glyphs[a - Config.fontBase]'(by omega) else 0

/-- The byte listed for an address. -/
def Memory.find : Memory → Nat → Option Byte
  | [], _ => none
  | cell :: m, a => if cell.1 = a then some cell.2 else Memory.find m a

/-- The byte at an address, `dflt` giving the unlisted ones. -/
def Memory.read (dflt : Nat → Byte) (m : Memory) (a : Nat) : Byte := (Memory.find m a).getD (dflt a)

/-- The list with the cell of `a` holding `b`, kept sorted. -/
def Memory.put (a : Nat) (b : Byte) : Memory → Memory
  | [] => [(a, b)]
  | cell :: m =>
    if a < cell.1 then (a, b) :: cell :: m
    else if a = cell.1 then (a, b) :: m
    else cell :: Memory.put a b m

/-- The list without a cell for `a`. -/
def Memory.erase (a : Nat) (m : Memory) : Memory := m.filter (fun cell => cell.1 ≠ a)

/-- Writing one byte: a byte equal to what the unlisted address reads as removes the cell. -/
def Memory.write (dflt : Nat → Byte) (m : Memory) (a : Nat) (b : Byte) : Memory :=
  if b = dflt a then Memory.erase a m else Memory.put a b m

/-- The canonical form: addresses strictly rising and inside the 4096 bytes, no cell equal to the unlisted byte. -/
abbrev Memory.wf (dflt : Nat → Byte) (m : Memory) : Prop :=
  m.Pairwise (fun c d => c.1 < d.1) ∧ ∀ cell ∈ m, cell.1 < Config.memSize ∧ cell.2 ≠ dflt cell.1

/-- `MemRead(a, 1)` of R52, for any natural `a` (R51). -/
def State.memRead (s : State) (a : Nat) : Byte := Memory.read (resetByte s.cfg) s.mem (a % Config.memSize)

/-- `MemWrite(a, 1, b)` of R52, for any natural `a` (R51). -/
def State.memWrite (s : State) (a : Nat) (b : Byte) : State :=
  { s with mem := Memory.write (resetByte s.cfg) s.mem (a % Config.memSize) b }

/-- Bytes written at ascending addresses from `a` on (R61, R63, R64). -/
def State.memWriteList (s : State) (a : Nat) : List Byte → State
  | [] => s
  | b :: bs => (s.memWrite a b).memWriteList (a + 1) bs

/-! ### Registers -/

/-- `V[r]` (R21). -/
def State.readV (s : State) (r : Reg) : Byte := s.v[r]

/-- `V[r] <- b` (R21). -/
def State.writeV (s : State) (r : Reg) (b : Byte) : State := { s with v := s.v.set r b }

/-- `I <- w` (R28). -/
def State.writeI (s : State) (w : Word) : State := { s with i := w }

/-- `PC <- w`: the full 16-bit value (R26). -/
def State.writePC (s : State) (w : Word) : State := { s with pc := w }

/-- `DT <- b` (R32). -/
def State.writeDT (s : State) (b : Byte) : State := { s with dt := b }

/-- `ST <- b` (R33). -/
def State.writeST (s : State) (b : Byte) : State := { s with st := b }

/-- The skip of R180: 2 more on the advanced PC, when the condition holds. -/
def State.skipIf (c : Bool) (s : State) : State := if c then s.writePC (s.pc + 2) else s

/-! ### Stack -/

/-- `push(w)` of R30; `none` when the stack is full. -/
def State.push (s : State) (w : Word) : Option State :=
  if s.sp = s.cfg.stackDepth then none else some { s with stack := s.stack.set s.sp w, sp := s.sp + 1 }

/-- `pop()` of R31; `none` when the stack is empty. The popped entry keeps its value (R172; log 10). -/
def State.pop (s : State) : Option (Word × State) :=
  if s.sp = 0 then none else some (s.stack.getD (s.sp - 1) 0, { s with sp := s.sp - 1 })

/-! ### Framebuffer -/

/-- `fb[px][py]` (R34). -/
def Framebuffer.pixel (f : Framebuffer) (px : Fin 64) (py : Fin 32) : Bool := f[py].getLsbD px

/-- `fb[px][py] <- fb[px][py] XOR 1` (R191). -/
def Framebuffer.toggle (f : Framebuffer) (px : Fin 64) (py : Fin 32) : Framebuffer :=
  f.set py (f[py] ^^^ BitVec.twoPow 64 px)

/-- Every pixel off (R40, R190). -/
def Framebuffer.clear : Framebuffer := Vector.replicate 32 0

/-! ### Keys -/

/-- `keys[k]` (R35). -/
def State.pressed (s : State) (k : Key) : Bool := s.keys[k]

/-- R111: the keys that are pressed now and were not at the last look. -/
def State.newlyPressed (s : State) (k : Key) : Bool := s.keys[k] && !s.prevKeys[k]

/-- R111: the smallest newly pressed key. -/
def State.firstNewKey (s : State) : Option Key := (List.finRange 16).find? s.newlyPressed

/-! ### Faults -/

/-- R222: the fault is recorded and nothing else changes; the core is quiescent from then on. -/
def raise (kind : FaultKind) (word addr : Word) (s : State) : Host.Outcome State Fault Refusal :=
  .next { s with fault := some ⟨kind, word, addr⟩ }

/-- A fault an instruction raises: its word is the instruction's, its address the PC before the fetch advance
(R113, R221; log 5). -/
def raiseBy (kind : FaultKind) (i : Instr) (s : State) : Host.Outcome State Fault Refusal :=
  raise kind (encode i) (s.pc - 2) s

end Sys2Proof.Machine
end

