-- ==== Sys2Proof/Machine/Flags.lean ====
section
/-! DEFINITION. Every flag computation (10_state.md R27, 42_alu.md R150..R159), and the order in which a result and
VF are written. -/

namespace Sys2Proof.Machine

/-- A flag's value in VF: 1 or 0. -/
def flagByte (f : Bool) : Byte := if f then 1 else 0

/-- R155: the exact sum exceeds 255. -/
def carryOut (a b : Byte) : Bool := decide (255 < a.toNat + b.toNat)

/-- R156, R158: no borrow in `a - b`. -/
def notBorrow (a b : Byte) : Bool := decide (b.toNat ≤ a.toNat)

/-- R157: the bit SHR shifts out, bit 0. -/
def lowBit (a : Byte) : Bool := a.getLsbD 0

/-- R159: the bit SHL shifts out, bit 7. -/
def highBit (a : Byte) : Bool := a.getLsbD 7

/-- R150: the result to V[x] first, then the flag to VF, so for x = F the flag stays. -/
def State.writeWithFlag (s : State) (x : Reg) (result : Byte) (flag : Bool) : State :=
  (s.writeV x result).writeV vf (flagByte flag)

/-- R151: the result to V[x], then 0 to VF only under `LOGIC_RESETS_VF`. -/
def State.writeLogic (s : State) (x : Reg) (result : Byte) : State :=
  if s.cfg.logicResetsVf then (s.writeV x result).writeV vf 0 else s.writeV x result

end Sys2Proof.Machine
end

