-- ==== Sys2Proof/Machine/Operands.lean ====
section
/-! DEFINITION. Every operand form: immediates (30_encoding.md R83), the register operands a parameter chooses
(R157, R159, R173), key codes (R178), glyph addresses (R192), decimal digits (R212) and the addresses `I + k`
(46_memory_ops.md). -/

namespace Sys2Proof.Machine

/-- `zext_16(nnn)` (R83). -/
def zextAddr (nnn : Addr) : Word := nnn.setWidth 16

/-- `src` of the shifts: V[x], or V[y] under `SHIFT_USES_VY` (R157, R159). -/
def State.shiftSource (s : State) (x y : Reg) : Byte := if s.cfg.shiftUsesVy then s.readV y else s.readV x

/-- The `x` field of a word of format NNN: the top nibble of `nnn` (R173). -/
def xOfNnn (nnn : Addr) : Reg := (nnn.extractLsb' 8 4).toFin

/-- `base` of Bnnn: V0, or V[x] under `BNNN_USES_VX` (R173). -/
def State.jumpBase (s : State) (nnn : Addr) : Byte := if s.cfg.bnnnUsesVx then s.readV (xOfNnn nnn) else s.readV 0

/-- The target of Bnnn, the exact sum: at most 0x10FE, so it fits 16 bits (R173). -/
def State.jumpTarget (s : State) (nnn : Addr) : Word := BitVec.ofNat 16 (nnn.toNat + (s.jumpBase nnn).toNat)

/-- The key a register names, `none` when the value is above 15 (R178). -/
def keyOfByte (b : Byte) : Option Key := if h : b.toNat < 16 then some ⟨b.toNat, h⟩ else none

/-- The glyph address of Fx29 (R192). -/
def glyphAddr (b : Byte) : Word := BitVec.ofNat 16 (Config.fontBase + 5 * (b &&& 0x0F).toNat)

/-- The three decimal digits of Fx33, hundreds first (R212). -/
def bcdDigits (b : Byte) : List Byte :=
  [BitVec.ofNat 8 (b.toNat / 100), BitVec.ofNat 8 (b.toNat / 10 % 10), BitVec.ofNat 8 (b.toNat % 10)]

/-- The registers V0..Vx, ascending (R213, R214). -/
def regsUpTo (x : Reg) : List Reg := (List.finRange 16).filter (fun r => r ≤ x)

/-- The address of the k-th byte at `I`, before the reduction mod 4096 (R52). -/
def State.effAddr (s : State) (k : Nat) : Nat := s.i.toNat + k

/-- `I` after Fx55 or Fx65: unchanged, or `(I + x + 1) mod 2^16` under `LOADSTORE_INCREMENTS_I` (R213, R214). -/
def State.stepI (s : State) (x : Reg) : State :=
  if s.cfg.loadStoreIncrementsI then s.writeI (s.i + BitVec.ofNat 16 (x.val + 1)) else s

end Sys2Proof.Machine
end

