-- ==== Sys2Proof/Machine/Alu.lean ====
section
/-! DEFINITION. The ALU instructions (42_alu.md R150..R159). Operands are read before anything is written (R150). -/

namespace Sys2Proof.Machine

/-- R152. -/
def execOrVxVy (x y : Reg) (s : State) : Host.Outcome State Fault Refusal :=
  .next (s.writeLogic x (s.readV x ||| s.readV y))

/-- R153. -/
def execAndVxVy (x y : Reg) (s : State) : Host.Outcome State Fault Refusal :=
  .next (s.writeLogic x (s.readV x &&& s.readV y))

/-- R154. -/
def execXorVxVy (x y : Reg) (s : State) : Host.Outcome State Fault Refusal :=
  .next (s.writeLogic x (s.readV x ^^^ s.readV y))

/-- R155: the sum mod 256, VF = carry. -/
def execAddVxVy (x y : Reg) (s : State) : Host.Outcome State Fault Refusal :=
  .next (s.writeWithFlag x (s.readV x + s.readV y) (carryOut (s.readV x) (s.readV y)))

/-- R156: Vx - Vy mod 256, VF = no borrow. -/
def execSubVxVy (x y : Reg) (s : State) : Host.Outcome State Fault Refusal :=
  .next (s.writeWithFlag x (s.readV x - s.readV y) (notBorrow (s.readV x) (s.readV y)))

/-- R157: the source shifted right by one, VF = the bit shifted out. -/
def execShrVxVy (x y : Reg) (s : State) : Host.Outcome State Fault Refusal :=
  .next (s.writeWithFlag x (s.shiftSource x y >>> 1) (lowBit (s.shiftSource x y)))

/-- R158: Vy - Vx mod 256, VF = no borrow. -/
def execSubnVxVy (x y : Reg) (s : State) : Host.Outcome State Fault Refusal :=
  .next (s.writeWithFlag x (s.readV y - s.readV x) (notBorrow (s.readV y) (s.readV x)))

/-- R159: the source shifted left by one mod 256, VF = the bit shifted out. -/
def execShlVxVy (x y : Reg) (s : State) : Host.Outcome State Fault Refusal :=
  .next (s.writeWithFlag x (s.shiftSource x y <<< 1) (highBit (s.shiftSource x y)))

end Sys2Proof.Machine
end

