-- ==== Sys2Proof/Machine/ControlFlow.lean ====
section
/-! DEFINITION. Control transfer and skips (43_control_flow.md R170..R182). PC is already the fetch address plus 2. -/

namespace Sys2Proof.Machine

/-- R170: `PC <- zext_16(nnn)`. -/
def execJpNnn (nnn : Addr) (s : State) : Host.Outcome State Fault Refusal := .next (s.writePC (zextAddr nnn))

/-- R171: `push(PC)`, then the jump; `StackOverflow` on a full stack, before any write. -/
def execCallNnn (nnn : Addr) (s : State) : Host.Outcome State Fault Refusal :=
  match s.push s.pc with
  | none => raiseBy .stackOverflow (.callNnn nnn) s
  | some t => .next (t.writePC (zextAddr nnn))

/-- R172: `PC <- pop()`; `StackUnderflow` on an empty stack, before any write. -/
def execRet (s : State) : Host.Outcome State Fault Refusal :=
  match s.pop with
  | none => raiseBy .stackUnderflow .ret s
  | some (w, t) => .next (t.writePC w)

/-- R173: `PC <- nnn + base`, unreduced. -/
def execJpV0Nnn (nnn : Addr) (s : State) : Host.Outcome State Fault Refusal := .next (s.writePC (s.jumpTarget nnn))

/-- R174. -/
def execSeVxKk (x : Reg) (kk : Byte) (s : State) : Host.Outcome State Fault Refusal :=
  .next (s.skipIf (s.readV x == kk))

/-- R175. -/
def execSneVxKk (x : Reg) (kk : Byte) (s : State) : Host.Outcome State Fault Refusal :=
  .next (s.skipIf (s.readV x != kk))

/-- R176; `n` is not read (R87). -/
def execSeVxVy (x y : Reg) (_n : Nibble) (s : State) : Host.Outcome State Fault Refusal :=
  .next (s.skipIf (s.readV x == s.readV y))

/-- R177; `n` is not read (R87). -/
def execSneVxVy (x y : Reg) (_n : Nibble) (s : State) : Host.Outcome State Fault Refusal :=
  .next (s.skipIf (s.readV x != s.readV y))

/-- R178: skip if the key numbered V[x] is pressed; `InvalidKey` when V[x] > 15 (D16). -/
def execSkpVx (x : Reg) (s : State) : Host.Outcome State Fault Refusal :=
  match keyOfByte (s.readV x) with
  | none => raiseBy .invalidKey (.skpVx x) s
  | some k => .next (s.skipIf (s.pressed k))

/-- R179: skip if the key numbered V[x] is not pressed; `InvalidKey` when V[x] > 15 (D16). -/
def execSknpVx (x : Reg) (s : State) : Host.Outcome State Fault Refusal :=
  match keyOfByte (s.readV x) with
  | none => raiseBy .invalidKey (.sknpVx x) s
  | some k => .next (s.skipIf (!s.pressed k))

end Sys2Proof.Machine
end

