-- ==== Sys2Proof/Machine/Display.lean ====
section
/-! DEFINITION. The framebuffer instructions (44_display.md R190..R192). -/

namespace Sys2Proof.Machine

/-- R190: every pixel off; VF is not written. -/
def execCls (s : State) : Host.Outcome State Fault Refusal := .next { s with fb := Framebuffer.clear }

/-- R191: the column of bit `7 - c` of a sprite row, wrapped at the right edge. -/
def spriteCol (vx : Byte) (c : Nat) : Fin 64 := Fin.ofNat 64 (vx.toNat + c)

/-- R191: the screen row of sprite row `r`, wrapped at the bottom edge. -/
def spriteRow (vy : Byte) (r : Nat) : Fin 32 := Fin.ofNat 32 (vy.toNat + r)

/-- R191: the pixels under the set bits of one sprite row, bit 7 leftmost (D15, G4). -/
def rowPixels (vx vy : Byte) (r : Nat) (b : Byte) : List (Fin 64 × Fin 32) :=
  (List.range 8).filterMap (fun c => if b.getLsbD (7 - c) then some (spriteCol vx c, spriteRow vy r) else none)

/-- R191: the pixels under the set bits of the `n` rows at `I`, in the order of the loop. -/
def State.spritePixels (s : State) (vx vy : Byte) (n : Nat) : List (Fin 64 × Fin 32) :=
  (List.range n).flatMap (fun r => rowPixels vx vy r (s.memRead (s.effAddr r)))

/-- R191: one pixel of the sprite: a pixel that is on collides, and the pixel is XORed. -/
def drawPixel (d : Framebuffer × Bool) (p : Fin 64 × Fin 32) : Framebuffer × Bool :=
  (Framebuffer.toggle d.1 p.1 p.2, d.2 || Framebuffer.pixel d.1 p.1 p.2)

/-- R191: the framebuffer after drawing the pixels, and whether any went from on to off. -/
def drawPixels (f : Framebuffer) (ps : List (Fin 64 × Fin 32)) : Framebuffer × Bool := ps.foldl drawPixel (f, false)

/-- R191: the coordinates are read before VF is written; VF is always written. -/
def execDrwVxVyN (x y : Reg) (n : Nibble) (s : State) : Host.Outcome State Fault Refusal :=
  let d := drawPixels s.fb (s.spritePixels (s.readV x) (s.readV y) n.toNat)
  .next ({ s with fb := d.1 }.writeV vf (flagByte d.2))

/-- R192: `I <- FONT_BASE + 5 * (V[x] AND 0x0F)`. -/
def execLdFVx (x : Reg) (s : State) : Host.Outcome State Fault Refusal := .next (s.writeI (glyphAddr (s.readV x)))

end Sys2Proof.Machine
end

