-- ==== Sys2Proof/Machine/MemoryOps.lean ====
section
/-! DEFINITION. The index register and memory transfers (46_memory_ops.md R210..R214). -/

namespace Sys2Proof.Machine

/-- R210: `I <- zext_16(nnn)`. -/
def execLdINnn (nnn : Addr) (s : State) : Host.Outcome State Fault Refusal := .next (s.writeI (zextAddr nnn))

/-- R211: `I <- (I + V[x]) mod 2^16`; VF is not written (D5). -/
def execAddIVx (x : Reg) (s : State) : Host.Outcome State Fault Refusal :=
  .next (s.writeI (s.i + (s.readV x).setWidth 16))

/-- R212: the three digits at I, I+1, I+2, hundreds first. -/
def execLdBVx (x : Reg) (s : State) : Host.Outcome State Fault Refusal :=
  .next (s.memWriteList (s.effAddr 0) (bcdDigits (s.readV x)))

/-- R213: V0..Vx to I..I+x, then `I` as the parameter says. -/
def execLdMIVx (x : Reg) (s : State) : Host.Outcome State Fault Refusal :=
  .next ((s.memWriteList (s.effAddr 0) ((regsUpTo x).map s.readV)).stepI x)

/-- R214: V0..Vx from I..I+x, then `I` as the parameter says. -/
def execLdVxMI (x : Reg) (s : State) : Host.Outcome State Fault Refusal :=
  .next (((regsUpTo x).foldl (fun t r => t.writeV r (s.memRead (s.effAddr r.val))) s).stepI x)

end Sys2Proof.Machine
end

