-- ==== Sys2Proof/Machine/RegisterOps.lean ====
section
/-! DEFINITION. Register load and add (41_register_ops.md R140..R143). Each meaning runs after the fetch advance. -/

namespace Sys2Proof.Machine

/-- R140: `V[x] <- kk`. -/
def execLdVxKk (x : Reg) (kk : Byte) (s : State) : Host.Outcome State Fault Refusal := .next (s.writeV x kk)

/-- R141: `V[x] <- (V[x] + kk) mod 256`; VF is no carry here (D27). -/
def execAddVxKk (x : Reg) (kk : Byte) (s : State) : Host.Outcome State Fault Refusal :=
  .next (s.writeV x (s.readV x + kk))

/-- R142: `V[x] <- V[y]`. -/
def execLdVxVy (x y : Reg) (s : State) : Host.Outcome State Fault Refusal := .next (s.writeV x (s.readV y))

/-- R143: `V[x] <- rnd AND kk`, `rnd` the argument of the step (R118). -/
def execRndVxKk (x : Reg) (kk : Byte) (s : State) : Host.Outcome State Fault Refusal :=
  .next (s.writeV x (s.rnd &&& kk))

end Sys2Proof.Machine
end

