-- ==== Sys2Proof/Machine/TimersKeys.lean ====
section
/-! DEFINITION. The timer and key-wait instructions (45_timers_keys.md R200..R203). The step that resolves a wait is in
Cycle.lean (R111). -/

namespace Sys2Proof.Machine

/-- R200: `V[x] <- DT`. -/
def execLdVxDT (x : Reg) (s : State) : Host.Outcome State Fault Refusal := .next (s.writeV x s.dt)

/-- R201: `DT <- V[x]`. -/
def execLdDTVx (x : Reg) (s : State) : Host.Outcome State Fault Refusal := .next (s.writeDT (s.readV x))

/-- R202: `ST <- V[x]`. -/
def execLdSTVx (x : Reg) (s : State) : Host.Outcome State Fault Refusal := .next (s.writeST (s.readV x))

/-- R203: `wait <- x; prev_keys <- keys`; V[x] is written by the step that resolves the wait. -/
def execLdVxK (x : Reg) (s : State) : Host.Outcome State Fault Refusal :=
  .next { s with wait := some x, prevKeys := s.keys }

end Sys2Proof.Machine
end

