-- ==== Sys2Proof/Machine/Cycle.lean ====
section
/-! DEFINITION. The step cycle (40_step_cycle.md R110..R118): what `step(rnd)` does. -/

namespace Sys2Proof.Machine

/-- R112: the word at PC, high byte first, both addresses reduced mod 4096. -/
def State.fetchWord (s : State) : Word := wordOfBytes (s.memRead s.pc.toNat) (s.memRead (s.pc.toNat + 1))

/-- R113: the fetch advance, `PC <- (a + 2) mod 2^16`. -/
def State.fetchAdvance (s : State) : State := s.writePC (s.pc + 2)

/-- The step's own bookkeeping: its `rnd` argument (R118), and no `load` from now on (R254). -/
def State.beginStep (rnd : Byte) (s : State) : State := { s with rnd := rnd, loadOpen := false }

/-- R111: the wait re-check. Nothing is fetched and PC is unchanged. -/
def State.waitRecheck (t : Reg) (s : State) : State :=
  match s.firstNewKey with
  | none => { s with prevKeys := s.keys }
  | some k => { (s.writeV t (BitVec.ofNat 8 k.val)) with prevKeys := s.keys, wait := none }

/-- R112..R115: fetch, advance, decode, and the instruction, or `UnknownOpcode` with the fetched word and its address. -/
def fetchExec (s : State) : Host.Outcome State Fault Refusal :=
  match decodeWord s.cfg.strict59 s.fetchWord with
  | .ok i => exec i s.fetchAdvance
  | .error _ => raise .unknownOpcode s.fetchWord s.pc s.fetchAdvance

/-- `step(rnd)`: the fault check (R110), then the wait re-check (R111) or the fetch (R112). -/
def stepWith (rnd : Byte) (s : State) : Host.Outcome State Fault Refusal :=
  match s.fault with
  | some r => .fault (.halted r)
  | none =>
    match s.wait with
    | some t => .next ((s.beginStep rnd).waitRecheck t)
    | none => fetchExec (s.beginStep rnd)

/-- The free byte of the next step of the fixed form, and the counter moved on (log 4). -/
def stepFree (s : State) : Host.Outcome State Fault Refusal :=
  stepWith (Config.freeRnd s.rndIndex) { s with rndIndex := s.rndIndex + 1 }

/-- A word placed where the next step fetches it, with no fault and no wait in the way (log 7). -/
def State.placeWord (s : State) (w : Word) : State :=
  { (s.memWriteList s.pc.toNat (bytesOfWord w)) with fault := none, wait := none }

end Sys2Proof.Machine
end

