-- ==== Sys2Proof/Machine/Step.lean ====
section
/-! DEFINITION. The step in the form the host fixes, and the placing of a word where it fetches. -/

namespace Sys2Proof.Machine

/-- One step of the core, its `rnd` a free byte (R110, R118; log 4). -/
def step (s : State) : Host.Outcome State Fault Refusal := stepFree s

/-- `s` with the opcode-table word `w` of `nbits` bits stored at PC, so that the next step fetches it (log 7). -/
def State.withFetchWord (s : State) (nbits w : Nat) : State := s.placeWord (tableWord nbits w)

end Sys2Proof.Machine
end

