-- ==== Sys2Proof/Machine/HostInterface.lean ====
section
/-! DEFINITION. The host's transactions (00_scope.md R4) other than `step`: construction data, `load`, `tick`,
`set_key` and the queries. Each is atomic and happens between two steps (40_step_cycle.md R116, R119). -/

namespace Sys2Proof.Machine

/-- `load_glyphs(GLYPHS)` of R64: the 80 bytes written from `FONT_BASE` on. Part of construction (R251), whose result
`State.resetWith` is. -/
def State.loadGlyphs (s : State) (glyphs : Vector Byte 80) : State := s.memWriteList Config.fontBase glyphs.toList

/-- R254: `load` is admitted once, in the state right after construction (log 8). -/
def State.loadAdmitted (s : State) : Bool := decide (s = State.resetWith s.cfg)

/-- `load(rom)` of R63: refused unless admitted; a ROM over 3584 bytes writes nothing and faults with word 0 and
address 0x200 (D21, D31). -/
def load (rom : List Byte) (s : State) : Host.Outcome State Fault Refusal :=
  if s.loadAdmitted then
    if rom.length > Config.romMax then raise .romTooLarge 0 0x200 { s with loadOpen := false }
    else .next { (s.memWriteList Config.romBase rom) with loadOpen := false }
  else .refused .loadNotAdmitted

/-- R204: one timer's decrement, floored at 0. -/
def countDown (b : Byte) : Byte := if b = 0 then 0 else b - 1

/-- `tick()` of R204: both timers; no transition while `fault` is set. -/
def tick (s : State) : Host.Outcome State Fault Refusal :=
  match s.fault with
  | some r => .fault (.halted r)
  | none => .next { s with dt := countDown s.dt, st := countDown s.st, loadOpen := false }

/-- `set_key(k, pressed)` of R206: refused for a code outside 0..15, with the state unchanged (D26). -/
def setKey (k : Nat) (pressed : Bool) (s : State) : Host.Outcome State Fault Refusal :=
  if h : k < 16 then .next { s with keys := s.keys.set k pressed } else .refused .keyOutOfRange

/-- `is_pressed(k)` of R207; it changes no state. -/
def isPressed (k : Nat) (s : State) : Except Refusal Bool :=
  if h : k < 16 then .ok (s.pressed ⟨k, h⟩) else .error .keyOutOfRange

/-- `is_on(px, py)` of R193; it changes no state. -/
def isOn (px py : Nat) (s : State) : Except Refusal Bool :=
  if h : px < Config.displayW ∧ py < Config.displayH then .ok (Framebuffer.pixel s.fb ⟨px, h.1⟩ ⟨py, h.2⟩)
  else .error .pixelOutOfRange

/-- `sound_timer()` of R205; it changes no state. -/
def soundTimer (s : State) : Byte := s.st

/-- R205: "The tone is on exactly while ST ≠ 0." -/
def toneOn (s : State) : Bool := decide (s.st ≠ 0)

/-- `fault_status()` of R221; it changes no state. -/
def faultStatus (s : State) : Option FaultRecord := s.fault

/-- `inspect()` of R230: the whole state record; it changes nothing. -/
def inspect (s : State) : State := s

/-- The host's transactions that can change the state (R4). The queries change none. -/
inductive Transaction where
  | load (rom : List Byte)
  | step (rnd : Byte)
  | tick
  | setKey (k : Nat) (pressed : Bool)
  deriving DecidableEq, Repr

/-- One transaction. -/
def transact : Transaction → State → Host.Outcome State Fault Refusal
  | .load rom, s => load rom s
  | .step rnd, s => stepWith rnd s
  | .tick, s => tick s
  | .setKey k pressed, s => setKey k pressed s

/-- A schedule of the host: the transactions in order, stopping at the first that has no transition (R119). -/
def transactAll : List Transaction → State → Host.Outcome State Fault Refusal
  | [], s => .next s
  | tr :: trs, s =>
    match transact tr s with
    | .next t => transactAll trs t
    | .fault f => .fault f
    | .refused r => .refused r

end Sys2Proof.Machine
end

