-- ==== Sys2Proof/Safety.lean ====
section
/-! DEFINITION. The terms claims are stated in: the invariant of the core's states, what "unchanged" means piece by
piece, which instructions write the registers, PC and the fault (R21, R25, R117), runs of instructions, and the end of a
program (40_step_cycle.md R120). -/

namespace Sys2Proof

/-- The table of R21, its two "written" rows: the registers an instruction's own step can write, as Vx or as VF. Fx0A
writes its target only when the wait ends (R203), which is no step of the instruction. -/
def Instr.writesV (logicResetsVf : Bool) : Instr → List Reg
  | .ldVxKk x _ | .addVxKk x _ | .ldVxVy x _ | .rndVxKk x _ | .ldVxDT x => [x]
  | .orVxVy x _ | .andVxVy x _ | .xorVxVy x _ => if logicResetsVf then [x, vf] else [x]
  | .addVxVy x _ | .subVxVy x _ | .shrVxVy x _ | .subnVxVy x _ | .shlVxVy x _ => [x, vf]
  | .drwVxVyN _ _ _ => [vf]
  | .ldVxMI x => (List.finRange 16).filter (fun r => r ≤ x)
  | .cls | .ret | .jpNnn _ | .callNnn _ | .seVxKk _ _ | .sneVxKk _ _ | .seVxVy _ _ _ | .sneVxVy _ _ _
  | .ldINnn _ | .jpV0Nnn _ | .skpVx _ | .sknpVx _ | .ldVxK _ | .ldDTVx _ | .ldSTVx _ | .addIVx _ | .ldFVx _
  | .ldBVx _ | .ldMIVx _ => []

/-- R25: the jumps, the call, the return and the skips, which override or extend the fetch advance of PC. -/
def Instr.writesPC : Instr → Bool
  | .ret | .jpNnn _ | .callNnn _ | .jpV0Nnn _ | .seVxKk _ _ | .sneVxKk _ _ | .seVxVy _ _ _ | .sneVxVy _ _ _
  | .skpVx _ | .sknpVx _ => true
  | .cls | .ldVxKk _ _ | .addVxKk _ _ | .ldVxVy _ _ | .orVxVy _ _ | .andVxVy _ _ | .xorVxVy _ _ | .addVxVy _ _
  | .subVxVy _ _ | .shrVxVy _ _ | .subnVxVy _ _ | .shlVxVy _ _ | .ldINnn _ | .rndVxKk _ _ | .drwVxVyN _ _ _
  | .ldVxDT _ | .ldVxK _ | .ldDTVx _ | .ldSTVx _ | .addIVx _ | .ldFVx _ | .ldBVx _ | .ldMIVx _ | .ldVxMI _ => false

/-- R117: "Every instruction that can fault (00EE, 2nnn, Ex9E, ExA1)". -/
def Instr.canFault : Instr → Bool
  | .ret | .callNnn _ | .skpVx _ | .sknpVx _ => true
  | .cls | .jpNnn _ | .jpV0Nnn _ | .seVxKk _ _ | .sneVxKk _ _ | .seVxVy _ _ _ | .sneVxVy _ _ _ | .ldVxKk _ _
  | .addVxKk _ _ | .ldVxVy _ _ | .orVxVy _ _ | .andVxVy _ _ | .xorVxVy _ _ | .addVxVy _ _ | .subVxVy _ _
  | .shrVxVy _ _ | .subnVxVy _ _ | .shlVxVy _ _ | .ldINnn _ | .rndVxKk _ _ | .drwVxVyN _ _ _ | .ldVxDT _
  | .ldVxK _ | .ldDTVx _ | .ldSTVx _ | .addIVx _ | .ldFVx _ | .ldBVx _ | .ldMIVx _ | .ldVxMI _ => false

end Sys2Proof

namespace Sys2Proof.Machine

/-- What every state a core can reach satisfies: a legal configuration (R5), memory in its canonical form, a stack of
STACK_DEPTH entries holding 0..STACK_DEPTH addresses (R29), no `InvalidRegister` (R23, R220), and never a fault and a
pending wait together (R223, R254). -/
structure State.Inv (s : State) : Prop where
  legal : s.cfg.Legal
  memory : Memory.wf (resetByte s.cfg) s.mem
  stackSize : s.stack.length = s.cfg.stackDepth
  spBound : s.sp ≤ s.cfg.stackDepth
  registersValid : ∀ r, s.fault = some r → r.kind ≠ .invalidRegister
  faultNotWaiting : s.fault ≠ none → s.wait = none

/-- The pieces of the state a claim can name. `mem` is every byte of the address space, read with `memRead`. -/
inductive Piece where
  | cfg | v | i | pc | stack | sp | dt | st | mem | fb | keys | wait | prevKeys | fault | rnd | rndIndex | loadOpen
  deriving DecidableEq, Repr

/-- The piece is the same in both states. -/
def Piece.same (s t : State) : Piece → Prop
  | .cfg => t.cfg = s.cfg
  | .v => ∀ r, t.readV r = s.readV r
  | .i => t.i = s.i
  | .pc => t.pc = s.pc
  | .stack => t.stack = s.stack
  | .sp => t.sp = s.sp
  | .dt => t.dt = s.dt
  | .st => t.st = s.st
  | .mem => ∀ a, t.memRead a = s.memRead a
  | .fb => t.fb = s.fb
  | .keys => t.keys = s.keys
  | .wait => t.wait = s.wait
  | .prevKeys => t.prevKeys = s.prevKeys
  | .fault => t.fault = s.fault
  | .rnd => t.rnd = s.rnd
  | .rndIndex => t.rndIndex = s.rndIndex
  | .loadOpen => t.loadOpen = s.loadOpen

/-- Every piece but the listed ones is unchanged from `s` to `t`. -/
def SameBut (ps : List Piece) (s t : State) : Prop := ∀ p, p ∉ ps → p.same s t

/-- Every register but the listed ones is unchanged from `s` to `t`. -/
def RegsSameBut (rs : List Reg) (s t : State) : Prop := ∀ r, r ∉ rs → t.readV r = s.readV r

/-- Every byte of memory outside the `n` bytes stored at `a`, `a + 1`, … (each reduced mod 4096) is unchanged. -/
def MemSameOutside (a n : Nat) (s t : State) : Prop :=
  ∀ b, (∀ k, k < n → b % Config.memSize ≠ (a + k) % Config.memSize) → t.memRead b = s.memRead b

/-- The instructions executed in order, each after its fetch advance (R113), stopping at a state that is faulted. -/
def runInstrs : List Instr → State → Host.Outcome State Fault Refusal
  | [], s => .next s
  | i :: is, s =>
    match s.fault with
    | some r => .fault (.halted r)
    | none =>
      match exec i s.fetchAdvance with
      | .next t => runInstrs is t
      | .fault f => .fault f
      | .refused r => .refused r

/-- R191, read off the rule without the loop: the sprite of `n` rows at `I`, drawn at (vx, vy), has a set bit over the
pixel (px, py). Row r, bit 7 - c lies over column (vx + c) mod 64, row (vy + r) mod 32. -/
def State.SpriteCovers (s : State) (vx vy : Byte) (n : Nat) (px : Fin 64) (py : Fin 32) : Prop :=
  ∃ r, r < n ∧ ∃ c, c < 8 ∧ (s.memRead (s.i.toNat + r)).getLsbD (7 - c) = true ∧
    (vx.toNat + c) % 64 = px.val ∧ (vy.toNat + r) % 32 = py.val

/-- R120: the program has reached its end at `e`: no fault, no wait, PC = e, and the word there is `0x1000 OR e`. -/
def State.AtEnd (s : State) (e : Addr) : Prop :=
  s.fault = none ∧ s.wait = none ∧ s.pc = e.setWidth 16 ∧ s.fetchWord = 0x1000 ||| e.setWidth 16

end Sys2Proof.Machine
end

