-- ==== Sys2Proof/Certificates/Slice0/Obligations.lean ====
section
/-! DEFINITION. The statements for the provers. Each docstring names the rule of spec/ it comes from; where a clause rests
on one of the spec's own decisions (D1..D35), on a passage it marks as general knowledge (G1..G8) or as derived, or on a
choice of this model (log <n>), the docstring says so. Every statement about states holds for every configuration. -/

open Sys2Proof Sys2Proof.Machine

/-! ### Encoding and decoding -/

/-- Decode of encode is the instruction, for every instruction of a core and every operand (30_encoding.md 1 to 3).
Opcode values: general knowledge G2, decision D1. -/
def Obligations.EncodedInstructionsDecodeBack : Prop :=
  ∀ (strict59 : Bool) (i : Instr), i.wellFormed strict59 = true →
    decode strict59 (bytesOfWord (encode i)) = .ok (i, [])

/-- Encode of decode is the word, so no bit of a decodable word is dropped, and the instruction is well-formed. -/
def Obligations.DecodedWordsEncodeBack : Prop :=
  ∀ (strict59 : Bool) (w : Word) (i : Instr), decodeWord strict59 w = .ok i →
    encode i = w ∧ i.wellFormed strict59 = true

/-- The two-level dispatch (R84) and the opcode map (R85) agree: a decoded instruction's row is in the map and selects
the word, a word the decoder refuses is selected by no row, and at most one row selects any word. Opcode values: G2,
D1. -/
def Obligations.DispatchAgreesWithTheOpcodeMap : Prop :=
  ∀ (strict59 : Bool) (w : Word),
    (∀ i, decodeWord strict59 w = .ok i →
      i.row strict59 ∈ opcodeRows strict59 ∧ (i.row strict59).selects w) ∧
    (∀ e, decodeWord strict59 w = .error e →
      e = .unknownOpcode w ∧ ∀ r ∈ opcodeRows strict59, ¬ r.selects w) ∧
    (∀ r ∈ opcodeRows strict59, ∀ q ∈ opcodeRows strict59, r.selects w → q.selects w → r = q)

/-- The unknown words, group by group (R86 to R89; decisions D2, D3; selector values G2). -/
def Obligations.UnknownWordsByGroup : Prop :=
  ∀ (strict59 : Bool) (w : Word),
    decodeWord strict59 w = .error (.unknownOpcode w) ↔
      (groupOf w = 0x0 ∧ w ≠ 0x00E0 ∧ w ≠ 0x00EE) ∨
      (groupOf w = 0x8 ∧ nOf w ∈ [0x8#4, 0x9#4, 0xA#4, 0xB#4, 0xC#4, 0xD#4, 0xF#4]) ∨
      (groupOf w = 0xE ∧ kkOf w ∉ [0x9E#8, 0xA1#8]) ∨
      (groupOf w = 0xF ∧
        kkOf w ∉ [0x07#8, 0x0A#8, 0x15#8, 0x18#8, 0x1E#8, 0x29#8, 0x33#8, 0x55#8, 0x65#8]) ∨
      (strict59 = true ∧ (groupOf w = 0x5 ∨ groupOf w = 0x9) ∧ nOf w ≠ 0)

/-- Words of the spec's own examples decode to what the spec says they are (95_test_vectors.md S1, S6, S8). -/
def Obligations.SampleWordsDecode : Prop :=
  decodeWord false 0xD125 = .ok (.drwVxVyN 0x1 0x2 0x5) ∧
  decodeWord false 0x8AB5 = .ok (.subVxVy 0xA 0xB) ∧
  decodeWord false 0xF30A = .ok (.ldVxK 0x3) ∧
  decodeWord false 0x00EE = .ok .ret ∧
  decodeWord false 0xFFFF = .error (.unknownOpcode 0xFFFF) ∧
  decodeWord false 0x6005 = .ok (.ldVxKk 0x0 0x05) ∧
  decodeWord false 0xA22A = .ok (.ldINnn 0x22A) ∧
  decodeWord false 0x1200 = .ok (.jpNnn 0x200)

/-- R55: the byte at the fetch address is the high byte of the opcode, the byte at the next address the low byte. -/
def Obligations.FetchIsBigEndian : Prop :=
  ∀ s : State, s.fetchWord =
    ((s.memRead s.pc.toNat).setWidth 16 <<< 8) ||| (s.memRead (s.pc.toNat + 1)).setWidth 16

/-! ### The step cycle -/

/-- A step runs the decoded instruction: when the two bytes at PC decode to `i` and neither a fault nor a wait is pending,
the step is `exec` of `i` at the state whose PC is advanced by 2 (R113), whose `rnd` is the next free byte (log 4) and
which no longer admits `load` (log 8). -/
def Obligations.StepRunsTheDecodedInstruction : Prop :=
  ∀ (s : State) (i : Instr), s.fault = none → s.wait = none →
    decode s.cfg.strict59 [s.memRead s.pc.toNat, s.memRead (s.pc.toNat + 1)] = .ok (i, []) →
    step s = exec i { s with pc := s.pc + 2, rnd := Config.freeRnd s.rndIndex, rndIndex := s.rndIndex + 1,
                             loadOpen := false }

/-- R112, R113, R115: with no fault and no wait the step reads the two bytes at PC, high byte first, at addresses reduced
mod 4096; PC is advanced by 2 (mod 2^16) before the instruction runs; the advance stays when the step faults. That the
step also sets the model's own rnd and loadOpen is log 4 and log 8. -/
def Obligations.StepFetchesThenAdvances : Prop :=
  ∀ (rnd : Byte) (s : State), s.fault = none → s.wait = none →
    let w : Word := ((s.memRead (s.pc.toNat % 4096)).setWidth 16 <<< 8) |||
      (s.memRead ((s.pc.toNat + 1) % 4096)).setWidth 16
    (∀ i, decodeWord s.cfg.strict59 w = .ok i →
      stepWith rnd s = exec i { s with pc := s.pc + 2, rnd := rnd, loadOpen := false }) ∧
    (∀ e, decodeWord s.cfg.strict59 w = .error e → ∃ t, stepWith rnd s = .next t ∧ t.fault ≠ none) ∧
    (∀ t, stepWith rnd s = .next t → t.fault ≠ none → t.pc = s.pc + 2)

/-- R110, R204: a faulted core has no step and no tick (decision D18; that this is the outcome `halted` is log 6). -/
def Obligations.FaultedCoreTakesNoStep : Prop :=
  ∀ (rnd : Byte) (s : State) (r : FaultRecord), s.fault = some r →
    stepWith rnd s = .fault (.halted r) ∧ step s = .fault (.halted r) ∧ tick s = .fault (.halted r)

/-- R111: a wait re-check that sees no new key only takes over the key states (decision D17). -/
def Obligations.WaitGoesOnWithoutNewKey : Prop :=
  ∀ (rnd : Byte) (s : State) (x : Reg), s.fault = none → s.wait = some x →
    (∀ k, ¬ (s.pressed k = true ∧ s.prevKeys[k] = false)) →
    ∃ t, stepWith rnd s = .next t ∧ t.prevKeys = s.keys ∧ SameBut [.prevKeys, .rnd, .loadOpen] s t

/-- R111: a wait re-check that sees a new key writes the smallest one to the target and ends the wait; PC is unchanged
(decision D17). -/
def Obligations.SmallestNewKeyEndsTheWait : Prop :=
  ∀ (rnd : Byte) (s : State) (x : Reg) (k : Key), s.fault = none → s.wait = some x →
    (s.pressed k = true ∧ s.prevKeys[k] = false) →
    (∀ j, j < k → ¬ (s.pressed j = true ∧ s.prevKeys[j] = false)) →
    ∃ t, stepWith rnd s = .next t ∧ (t.readV x).toNat = k.val ∧ t.wait = none ∧ t.prevKeys = s.keys ∧
      RegsSameBut [x] s t ∧ SameBut [.v, .wait, .prevKeys, .rnd, .loadOpen] s t

/-- R115, R221: a word that decodes to nothing is recorded with its fetch address, PC keeps the advance, and no other
piece changes (decisions D19, D31). -/
def Obligations.UnknownWordIsRecorded : Prop :=
  ∀ (rnd : Byte) (s : State) (e : DecodeError), s.fault = none → s.wait = none →
    decodeWord s.cfg.strict59 s.fetchWord = .error e →
    ∃ t, stepWith rnd s = .next t ∧ t.fault = some ⟨.unknownOpcode, s.fetchWord, s.pc⟩ ∧ t.pc = s.pc + 2 ∧
      SameBut [.pc, .fault, .rnd, .loadOpen] s t

/-- R117, R221: every fault a step raises is precise: the state is the one before, but for the fetch advance and the
record of the kind, the fetched word and the fetch address; and the kind is one of the four a step can raise (R220).
Decisions D16, D18, D19, D31; that the step also sets the model's own rnd and loadOpen is log 4 and log 8. -/
def Obligations.FaultsArePrecise : Prop :=
  ∀ (rnd : Byte) (s t : State), s.fault = none → stepWith rnd s = .next t → t.fault ≠ none →
    s.wait = none ∧ ∃ kind ∈ [FaultKind.unknownOpcode, .stackOverflow, .stackUnderflow, .invalidKey],
      t = { s with pc := s.pc + 2, fault := some ⟨kind, s.fetchWord, s.pc⟩, rnd := rnd, loadOpen := false }

/-- Every step keeps the invariant: a legal configuration, canonical memory, a stack of STACK_DEPTH entries with SP in
0..STACK_DEPTH (R29), no `InvalidRegister` (R23), no fault together with a wait (R223). -/
def Obligations.EveryStepKeepsTheInvariant : Prop :=
  ∀ s t : State, s.Inv → step s = .next t → t.Inv

/-- The invariant holds of the constructed core under every legal configuration, and so of State.reset. -/
def Obligations.InvariantHoldsAtReset : Prop :=
  (∀ c : Config, c.Legal → (State.resetWith c).Inv) ∧ State.reset.Inv

/-- Every schedule of the host's transactions keeps the invariant (R119: any order, any number). -/
def Obligations.EveryScheduleKeepsTheInvariant : Prop :=
  ∀ (trs : List Transaction) (s t : State), s.Inv → transactAll trs s = .next t → t.Inv

/-! ### Reset -/

/-- R40, R64, R250: the constructed core. PC = 0x200; registers, timers and stack 0; no pixel on, no key pressed, no wait,
no fault; memory 0 but for glyph d at 0x050 + 5 * d (decisions D17, D18, D24, D33; log 9). The model's own fields are not
spoken of. -/
def Obligations.ResetStateOfTheCore : Prop :=
  ∀ c : Config,
    let s := State.resetWith c
    s.pc = 0x200 ∧ (∀ r, s.readV r = 0) ∧ s.i = 0 ∧ s.sp = 0 ∧
    s.stack.length = c.stackDepth ∧ (∀ w ∈ s.stack, w = 0) ∧ s.dt = 0 ∧ s.st = 0 ∧
    (∀ px py, Framebuffer.pixel s.fb px py = false) ∧ (∀ k, s.pressed k = false) ∧ s.wait = none ∧
    (∀ k : Key, s.prevKeys[k] = false) ∧ s.fault = none ∧
    (∀ (d : Fin 16) (j : Fin 5), s.memRead (0x050 + 5 * d.val + j.val) = c.glyphs[5 * d.val + j.val]'(by omega)) ∧
    (∀ a, a < 4096 → (a < 0x050 ∨ 0x0A0 ≤ a) → s.memRead a = 0) ∧
    s.loadGlyphs c.glyphs = s

/-! ### Memory -/

/-- R51: the byte accessed at address a is `mem[a mod 4096]`, for any natural a, in a read and in a write. -/
def Obligations.EveryAddressIsReducedMod4096 : Prop :=
  ∀ (s : State) (a : Nat), s.memRead a = s.memRead (a % 4096) ∧
    (∀ b, s.memWrite a b = s.memWrite (a % 4096) b) ∧ s.memRead (a + 4096) = s.memRead a

/-- R52, R59: a byte written is the byte read at the same address mod 4096, and a write leaves every other byte and every
other piece alone. -/
def Obligations.MemoryReadsTheLastWrite : Prop :=
  ∀ (s : State) (a c : Nat) (b : Byte),
    ((s.memWrite a b).memRead c = if c % 4096 = a % 4096 then b else s.memRead c) ∧
    SameBut [.mem] s (s.memWrite a b)

/-- Equal memories are equal data: two lists in the canonical form that read alike everywhere are the same list (the
model's form of memory, log 9). -/
def Obligations.CanonicalMemoriesAreDeterminedByTheirBytes : Prop :=
  ∀ (dflt : Nat → Byte) (m n : Memory), Memory.wf dflt m → Memory.wf dflt n →
    (∀ a, a < 4096 → Memory.read dflt m a = Memory.read dflt n a) → m = n

/-- R62: the two bytes stored at PC and PC + 1 are the word the next fetch there reads, wrapping at 0xFFF (the spec marks
R62 as derived). -/
def Obligations.StoreIsSeenByTheNextFetch : Prop :=
  ∀ (s : State) (w : Word),
    ((s.memWrite s.pc.toNat (w.extractLsb' 8 8)).memWrite (s.pc.toNat + 1) (w.extractLsb' 0 8)).fetchWord = w

/-! ### Rules about all instructions -/

/-- R224: no instruction and no transaction clears `fault`, and the faulted core takes no further step. R222, decision D18:
no later transaction changes any state but `keys`. -/
def Obligations.NothingClearsAFault : Prop :=
  (∀ (i : Instr) (s t : State), s.fault ≠ none → exec i s = .next t → t.fault ≠ none) ∧
  (∀ (tr : Transaction) (s t : State) (r : FaultRecord), s.fault = some r → transact tr s = .next t →
    t.fault = some r ∧ SameBut [.keys] s t) ∧
  (∀ (rnd : Byte) (s t : State), s.fault ≠ none → stepWith rnd s ≠ .next t)

/-- Each piece is written by the instructions the spec names for it and by no other: V (R21's table, register by register),
PC (R25; here PC is already advanced), I (R28), the stack (R171, R172), DT (R32), ST (R33), memory (R58), the framebuffer
(R34), the wait and `prev_keys` (R36, R37), the fault (R117, decision D19); no instruction writes `keys` (R35), the
configuration (R20, log 1) or the model's own rnd, rndIndex (log 4) and loadOpen (log 8). -/
def Obligations.PiecesAreWrittenOnlyByTheirInstructions : Prop :=
  ∀ (i : Instr) (s t : State), exec i s = .next t →
    RegsSameBut (i.writesV s.cfg.logicResetsVf) s t ∧
    (i.writesPC = false → t.pc = s.pc) ∧
    (i.canFault = false → t.fault = s.fault) ∧
    ((∀ nnn, i ≠ .ldINnn nnn) → (∀ x, i ≠ .addIVx x ∧ i ≠ .ldFVx x) →
      ((∀ x, i ≠ .ldMIVx x ∧ i ≠ .ldVxMI x) ∨ s.cfg.loadStoreIncrementsI = false) → t.i = s.i) ∧
    ((∀ nnn, i ≠ .callNnn nnn) → t.stack = s.stack ∧ (i ≠ .ret → t.sp = s.sp)) ∧
    ((∀ x, i ≠ .ldDTVx x) → t.dt = s.dt) ∧
    ((∀ x, i ≠ .ldSTVx x) → t.st = s.st) ∧
    ((∀ x, i ≠ .ldBVx x ∧ i ≠ .ldMIVx x) → t.mem = s.mem) ∧
    (i ≠ .cls → (∀ x y n, i ≠ .drwVxVyN x y n) → t.fb = s.fb) ∧
    ((∀ x, i ≠ .ldVxK x) → t.wait = s.wait ∧ t.prevKeys = s.prevKeys) ∧
    t.keys = s.keys ∧ t.cfg = s.cfg ∧ t.rnd = s.rnd ∧ t.rndIndex = s.rndIndex ∧ t.loadOpen = s.loadOpen

/-- R180: a skip whose condition holds leaves PC at the fetch address plus 4 (mod 2^16), whatever the skipped word is, and
the step does not fault. The conditions are those of R174 to R179 (values G2, senses G3, key polarity decision D28). -/
def Obligations.SkipPassesOverOneWord : Prop :=
  ∀ (rnd : Byte) (s : State) (i : Instr), s.fault = none → s.wait = none →
    decodeWord s.cfg.strict59 s.fetchWord = .ok i →
    ((∃ x kk, i = .seVxKk x kk ∧ s.readV x = kk) ∨ (∃ x kk, i = .sneVxKk x kk ∧ s.readV x ≠ kk) ∨
     (∃ x y n, i = .seVxVy x y n ∧ s.readV x = s.readV y) ∨ (∃ x y n, i = .sneVxVy x y n ∧ s.readV x ≠ s.readV y) ∨
     (∃ x k, i = .skpVx x ∧ (s.readV x).toNat = k.val ∧ s.pressed k = true) ∨
     (∃ x k, i = .sknpVx x ∧ (s.readV x).toNat = k.val ∧ s.pressed k = false)) →
    ∃ t, stepWith rnd s = .next t ∧ t.pc = s.pc + 4 ∧ t.fault = none

/-- R118: only RND reads `rnd`: any other instruction does the same under every value of it (decision D14). -/
def Obligations.OnlyRndReadsTheRandomByte : Prop :=
  ∀ (i : Instr) (s t : State) (b : Byte), (∀ x kk, i ≠ .rndVxKk x kk) → exec i s = .next t →
    exec i { s with rnd := b } = .next { t with rnd := b }

/-- R33: no instruction reads ST (the spec marks the sentence as derived). -/
def Obligations.NoInstructionReadsTheSoundTimer : Prop :=
  ∀ (i : Instr) (s t : State) (b : Byte), exec i s = .next t →
    exec i { s with st := b } = .next (if ∃ x, i = .ldSTVx x then t else { t with st := b })

/-- R29: the stack entries at SP and above are not observable: two states that differ only there go on to states that
differ only there (decision D7, log 10). -/
def Obligations.StaleStackEntriesAreUnobservable : Prop :=
  ∀ (i : Instr) (s t : State) (entries : List Word), entries.length = s.stack.length →
    (∀ j, j < s.sp → entries[j]? = s.stack[j]?) → exec i s = .next t →
    ∃ u, exec i { s with stack := entries } = .next u ∧ u = { t with stack := u.stack } ∧
      ∀ j, j < t.sp → u.stack[j]? = t.stack[j]?

/-! ### Register load and add -/

/-- R140: LD Vx, kk (mask 0xF000, match 0x6000) loads the immediate byte, VF like any other register; nothing else changes
and it cannot fault. -/
def Obligations.LdVxKkLoadsTheImmediate : Prop :=
  ∀ (x : Reg) (kk : Byte) (s : State),
    (∀ b, (Instr.ldVxKk x kk).row b = ⟨0xF000, 0x6000⟩) ∧
    ∃ t, exec (.ldVxKk x kk) s = .next t ∧ t.readV x = kk ∧ RegsSameBut [x] s t ∧ SameBut [.v] s t

/-- R141, R142: 7xkk adds mod 256 and writes no carry (decision D27), 8xy0 copies; both write Vx only (opcode and
sub-operation values G2). -/
def Obligations.AddImmediateAndCopyWriteOnlyVx : Prop :=
  ∀ (x y : Reg) (kk : Byte) (s : State),
    (∃ t, exec (.addVxKk x kk) s = .next t ∧ (t.readV x).toNat = ((s.readV x).toNat + kk.toNat) % 256 ∧
      RegsSameBut [x] s t ∧ SameBut [.v] s t) ∧
    (∃ t, exec (.ldVxVy x y) s = .next t ∧ t.readV x = s.readV y ∧ RegsSameBut [x] s t ∧ SameBut [.v] s t)

/-- R143: RND writes the step's random byte ANDed with kk, for every value of that byte; the result is a subset of kk's
bits (decision D14, general knowledge G2; log 4). -/
def Obligations.RndMasksTheRandomByte : Prop :=
  ∀ (x : Reg) (kk : Byte) (s : State), ∃ t, exec (.rndVxKk x kk) s = .next t ∧ t.readV x = s.rnd &&& kk ∧
    (∀ j, (t.readV x).getLsbD j = true → kk.getLsbD j = true) ∧ RegsSameBut [x] s t ∧ SameBut [.v] s t

/-! ### ALU -/

/-- R151 to R154: OR, AND and XOR write the result to Vx; VF is cleared after it exactly under LOGIC_RESETS_VF, so x = F
then leaves 0 (decision D10, sub-operations G2). -/
def Obligations.LogicOperationsWriteVxAndMayClearVf : Prop :=
  ∀ (x y : Reg) (s : State),
    let completesWith := fun (i : Instr) (result : Byte) => ∃ t, exec i s = .next t ∧ SameBut [.v] s t ∧
      (s.cfg.logicResetsVf = false → t.readV x = result ∧ RegsSameBut [x] s t) ∧
      (s.cfg.logicResetsVf = true → t.readV vf = 0 ∧ (x ≠ vf → t.readV x = result) ∧ RegsSameBut [x, vf] s t)
    completesWith (.orVxVy x y) (s.readV x ||| s.readV y) ∧
    completesWith (.andVxVy x y) (s.readV x &&& s.readV y) ∧
    completesWith (.xorVxVy x y) (s.readV x ^^^ s.readV y)

/-- R150, R155: 8xy4 adds mod 256 with the carry in VF; for x = F the carry stays (decisions D9, D28). -/
def Obligations.AddSetsCarry : Prop :=
  ∀ (x y : Reg) (s : State), ∃ t, exec (.addVxVy x y) s = .next t ∧
    (x ≠ vf → (t.readV x).toNat = ((s.readV x).toNat + (s.readV y).toNat) % 256) ∧
    t.readV vf = (if (s.readV x).toNat + (s.readV y).toNat > 255 then 1 else 0) ∧
    RegsSameBut [x, vf] s t ∧ SameBut [.v] s t

/-- R156: 8xy5 (mask 0xF00F, match 0x8005) subtracts mod 256, VF = 1 when no borrow occurs (vx ≥ vy), else 0; for x = F
VF is that flag. -/
def Obligations.SubSetsNotBorrow : Prop :=
  ∀ (x y : Reg) (s : State),
    (∀ b, (Instr.subVxVy x y).row b = ⟨0xF00F, 0x8005⟩) ∧
    ∃ t, exec (.subVxVy x y) s = .next t ∧
      (x ≠ vf → ((t.readV x).toNat : Int) = ((s.readV x).toNat - (s.readV y).toNat : Int) % 256) ∧
      t.readV vf = (if (s.readV x).toNat ≥ (s.readV y).toNat then 1 else 0) ∧
      RegsSameBut [x, vf] s t ∧ SameBut [.v] s t

/-- R150, R158: 8xy7 is Vy - Vx mod 256, VF = 1 when no borrow occurs (vy ≥ vx), else 0 (decisions D9, D28). -/
def Obligations.SubnSetsNotBorrow : Prop :=
  ∀ (x y : Reg) (s : State), ∃ t, exec (.subnVxVy x y) s = .next t ∧
    (x ≠ vf → ((t.readV x).toNat : Int) = ((s.readV y).toNat - (s.readV x).toNat : Int) % 256) ∧
    t.readV vf = (if (s.readV y).toNat ≥ (s.readV x).toNat then 1 else 0) ∧
    RegsSameBut [x, vf] s t ∧ SameBut [.v] s t

/-- R150, R157, R159: the shifts read Vx, or Vy under SHIFT_USES_VY, and put the bit shifted out in VF (decisions D8, D9;
direction and flag general knowledge G3). -/
def Obligations.ShiftsSetTheBitShiftedOut : Prop :=
  ∀ (x y : Reg) (s : State),
    let src := if s.cfg.shiftUsesVy then (s.readV y).toNat else (s.readV x).toNat
    (∃ t, exec (.shrVxVy x y) s = .next t ∧ (x ≠ vf → (t.readV x).toNat = src / 2) ∧
      (t.readV vf).toNat = src % 2 ∧ RegsSameBut [x, vf] s t ∧ SameBut [.v] s t) ∧
    (∃ t, exec (.shlVxVy x y) s = .next t ∧ (x ≠ vf → (t.readV x).toNat = (2 * src) % 256) ∧
      (t.readV vf).toNat = src / 128 ∧ RegsSameBut [x, vf] s t ∧ SameBut [.v] s t)

/-! ### Control flow -/

/-- R170: JP nnn (mask 0xF000, match 0x1000) sets PC to nnn, odd or not; nothing else changes and it cannot fault. -/
def Obligations.JumpSetsPcToTheTarget : Prop :=
  ∀ (nnn : Addr) (s : State),
    (∀ b, (Instr.jpNnn nnn).row b = ⟨0xF000, 0x1000⟩) ∧
    ∃ t, exec (.jpNnn nnn) s = .next t ∧ t.pc.toNat = nnn.toNat ∧ SameBut [.pc] s t

/-- R30, R171: CALL on a stack that is not full pushes the advanced PC and jumps (opcode value G2). The premise on the
stack is the invariant's. -/
def Obligations.CallPushesTheReturnAddress : Prop :=
  ∀ (nnn : Addr) (s : State), s.Inv → s.sp < s.cfg.stackDepth →
    ∃ t, exec (.callNnn nnn) s = .next t ∧ t.stack[s.sp]? = some s.pc ∧ t.sp = s.sp + 1 ∧ t.pc.toNat = nnn.toNat ∧
      (∀ j, j ≠ s.sp → t.stack[j]? = s.stack[j]?) ∧ SameBut [.pc, .stack, .sp] s t

/-- R31, R172: RET on a stack that is not empty pops the newest address into PC, all 16 bits (opcode value G2). -/
def Obligations.RetPopsIntoPc : Prop :=
  ∀ (s : State) (w : Word), s.sp ≠ 0 → s.stack[s.sp - 1]? = some w →
    ∃ t, exec .ret s = .next t ∧ t.pc = w ∧ t.sp = s.sp - 1 ∧ SameBut [.pc, .sp] s t

/-- R171, R172, R220, R221: CALL on a full stack and RET on an empty one record their fault and change nothing else
(decisions D19, D31; the word and the address are the instruction's encoding and PC - 2, log 5). -/
def Obligations.StackFaultsAreRecorded : Prop :=
  ∀ (s : State),
    (∀ nnn, s.sp = s.cfg.stackDepth → ∃ t, exec (.callNnn nnn) s = .next t ∧
      t.fault = some ⟨.stackOverflow, 0x2000 ||| nnn.setWidth 16, s.pc - 2⟩ ∧ SameBut [.fault] s t) ∧
    (s.sp = 0 → ∃ t, exec .ret s = .next t ∧ t.fault = some ⟨.stackUnderflow, 0x00EE, s.pc - 2⟩ ∧
      SameBut [.fault] s t)

/-- R182: N calls followed by N returns restore PC to the address after the first call and SP to its depth, and one more
return from an empty stack raises StackUnderflow (the spec marks R182 as derived). That the record holds the RET's word
and its fetch address is decision D31 and log 5. -/
def Obligations.CallsAndReturnsBalance : Prop :=
  ∀ (targets : List Addr) (s : State), s.Inv → s.fault = none → s.sp + targets.length ≤ s.cfg.stackDepth →
    ∃ t, runInstrs (targets.map .callNnn ++ List.replicate targets.length .ret) s = .next t ∧
      t.sp = s.sp ∧ t.pc = (if targets = [] then s.pc else s.pc + 2) ∧ t.fault = none ∧
      (∀ j, j < s.sp → t.stack[j]? = s.stack[j]?) ∧
      (s.sp = 0 → ∃ u, runInstrs (targets.map .callNnn ++ List.replicate (targets.length + 1) .ret) s = .next u ∧
        u.fault = some ⟨.stackUnderflow, 0x00EE, t.pc⟩)

/-- R173: Bnnn sets PC to nnn plus V0, or plus Vx under BNNN_USES_VX with x the top nibble of nnn; the sum is stored
unreduced (decisions D4, D11; opcode value G2). -/
def Obligations.JumpV0AddsTheBaseRegister : Prop :=
  ∀ (nnn : Addr) (s : State), ∃ t, exec (.jpV0Nnn nnn) s = .next t ∧
    (s.cfg.bnnnUsesVx = false → t.pc.toNat = nnn.toNat + (s.readV 0).toNat) ∧
    (s.cfg.bnnnUsesVx = true →
      ∀ x : Reg, x.val = nnn.toNat / 256 → t.pc.toNat = nnn.toNat + (s.readV x).toNat) ∧
    SameBut [.pc] s t

/-- R174 to R177: the comparison skips add 2 to the advanced PC exactly when the comparison holds (opcode values and
senses G2, G3); n is not read (decision D3). -/
def Obligations.ComparisonSkips : Prop :=
  ∀ (x y : Reg) (kk : Byte) (n : Nibble) (s : State),
    (∃ t, exec (.seVxKk x kk) s = .next t ∧ t.pc = (if s.readV x = kk then s.pc + 2 else s.pc) ∧ SameBut [.pc] s t) ∧
    (∃ t, exec (.sneVxKk x kk) s = .next t ∧ t.pc = (if s.readV x = kk then s.pc else s.pc + 2) ∧ SameBut [.pc] s t) ∧
    (∃ t, exec (.seVxVy x y n) s = .next t ∧ t.pc = (if s.readV x = s.readV y then s.pc + 2 else s.pc) ∧
      SameBut [.pc] s t) ∧
    (∃ t, exec (.sneVxVy x y n) s = .next t ∧ t.pc = (if s.readV x = s.readV y then s.pc else s.pc + 2) ∧
      SameBut [.pc] s t)

/-- R178, R179: with a key code of at most 15, SKP skips when that key is pressed and SKNP when it is not (polarity:
decision D28). -/
def Obligations.KeySkipsFollowTheKey : Prop :=
  ∀ (x : Reg) (k : Key) (s : State), (s.readV x).toNat = k.val →
    (∃ t, exec (.skpVx x) s = .next t ∧ t.pc = (if s.pressed k = true then s.pc + 2 else s.pc) ∧ SameBut [.pc] s t) ∧
    (∃ t, exec (.sknpVx x) s = .next t ∧ t.pc = (if s.pressed k = true then s.pc else s.pc + 2) ∧ SameBut [.pc] s t)

/-- R178, R179: a key code above 15 raises InvalidKey and changes nothing else (decisions D16, D31). -/
def Obligations.KeySkipsRefuseCodesAboveFifteen : Prop :=
  ∀ (x : Reg) (s : State), 15 < (s.readV x).toNat →
    (∃ t, exec (.skpVx x) s = .next t ∧ t.fault = some ⟨.invalidKey, encode (.skpVx x), s.pc - 2⟩ ∧
      SameBut [.fault] s t) ∧
    (∃ t, exec (.sknpVx x) s = .next t ∧ t.fault = some ⟨.invalidKey, encode (.sknpVx x), s.pc - 2⟩ ∧
      SameBut [.fault] s t)

/-! ### Display -/

/-- R190: CLS turns every pixel off and writes nothing else, VF included (opcode value G2). -/
def Obligations.ClsClearsEveryPixel : Prop :=
  ∀ s : State, ∃ t, exec .cls s = .next t ∧ (∀ px py, Framebuffer.pixel t.fb px py = false) ∧ SameBut [.fb] s t

/-- R191, pixel by pixel: DRW inverts exactly the pixels under set bits of the sprite, wrapped on both axes; VF is 1 when
one of them was on, else 0, and is always written; coordinates are read first (decision D15, bit order G4). -/
def Obligations.DrwInvertsTheSpritesPixels : Prop :=
  ∀ (x y : Reg) (n : Nibble) (s : State),
    let covers := s.SpriteCovers (s.readV x) (s.readV y) n.toNat
    ∃ t, exec (.drwVxVyN x y n) s = .next t ∧
      (∀ px py, covers px py → Framebuffer.pixel t.fb px py = !Framebuffer.pixel s.fb px py) ∧
      (∀ px py, ¬ covers px py → Framebuffer.pixel t.fb px py = Framebuffer.pixel s.fb px py) ∧
      ((∃ px py, covers px py ∧ Framebuffer.pixel s.fb px py = true) → t.readV vf = 1) ∧
      ((∀ px py, covers px py → Framebuffer.pixel s.fb px py = false) → t.readV vf = 0) ∧
      RegsSameBut [vf] s t ∧ SameBut [.v, .fb] s t

/-- R194: drawing the same sprite at the same place twice restores the framebuffer, and the second draw sets VF = 1
exactly when a pixel under a set bit is on after the first (the spec marks R194 as derived). -/
def Obligations.DrawingTwiceRestoresTheScreen : Prop :=
  ∀ (x y : Reg) (n : Nibble) (s t : State), exec (.drwVxVyN x y n) s = .next t →
    (t.readV x).toNat % 64 = (s.readV x).toNat % 64 → (t.readV y).toNat % 32 = (s.readV y).toNat % 32 →
    ∃ u, exec (.drwVxVyN x y n) t = .next u ∧ u.fb = s.fb ∧
      (u.readV vf = 1 ↔
        ∃ px py, s.SpriteCovers (s.readV x) (s.readV y) n.toNat px py ∧ Framebuffer.pixel t.fb px py = true)

/-- R192: Fx29 points I at the glyph of the low hex digit of Vx (decisions D13, D24; general knowledge G3). -/
def Obligations.LdFPointsAtTheGlyph : Prop :=
  ∀ (x : Reg) (s : State), ∃ t, exec (.ldFVx x) s = .next t ∧ t.i.toNat = 0x050 + 5 * ((s.readV x).toNat % 16) ∧
    SameBut [.i] s t

/-! ### Timers and keys -/

/-- R200 to R202: Fx07 reads DT into Vx, Fx15 and Fx18 set DT and ST from Vx (opcode values G2). -/
def Obligations.TimerInstructionsMoveBytes : Prop :=
  ∀ (x : Reg) (s : State),
    (∃ t, exec (.ldVxDT x) s = .next t ∧ t.readV x = s.dt ∧ RegsSameBut [x] s t ∧ SameBut [.v] s t) ∧
    (∃ t, exec (.ldDTVx x) s = .next t ∧ t.dt = s.readV x ∧ SameBut [.dt] s t) ∧
    (∃ t, exec (.ldSTVx x) s = .next t ∧ t.st = s.readV x ∧ SameBut [.st] s t)

/-- R203: Fx0A begins the wait for its target and takes over the key states; PC keeps the advance and no register is
written (decisions D17, D34; opcode value G2). -/
def Obligations.LdVxKBeginsTheWait : Prop :=
  ∀ (x : Reg) (s : State), ∃ t, exec (.ldVxK x) s = .next t ∧ t.wait = some x ∧ t.prevKeys = s.keys ∧
    SameBut [.wait, .prevKeys] s t

/-! ### Index register and memory transfer -/

/-- R210: LD I, nnn (mask 0xF000, match 0xA000) writes the 12-bit address to I; nothing else changes. -/
def Obligations.LdILoadsTheAddress : Prop :=
  ∀ (nnn : Addr) (s : State),
    (∀ b, (Instr.ldINnn nnn).row b = ⟨0xF000, 0xA000⟩) ∧
    ∃ t, exec (.ldINnn nnn) s = .next t ∧ t.i.toNat = nnn.toNat ∧ SameBut [.i] s t

/-- R211: Fx1E adds Vx to I mod 2^16 and writes no flag (decision D5; general knowledge G3). -/
def Obligations.AddIWrapsAtSixteenBits : Prop :=
  ∀ (x : Reg) (s : State), ∃ t, exec (.addIVx x) s = .next t ∧
    t.i.toNat = (s.i.toNat + (s.readV x).toNat) % 65536 ∧ SameBut [.i] s t

/-- R212: Fx33 stores the hundreds, tens and ones of Vx at I, I + 1, I + 2 and no other byte (decision D29, opcode value
G2). -/
def Obligations.LdBStoresThreeDigits : Prop :=
  ∀ (x : Reg) (s : State), ∃ t, exec (.ldBVx x) s = .next t ∧
    (t.memRead (s.effAddr 0)).toNat = (s.readV x).toNat / 100 ∧
    (t.memRead (s.effAddr 1)).toNat = (s.readV x).toNat / 10 % 10 ∧
    (t.memRead (s.effAddr 2)).toNat = (s.readV x).toNat % 10 ∧
    MemSameOutside (s.effAddr 0) 3 s t ∧ SameBut [.mem] s t

/-- R213: Fx55 stores V0..Vx at I..I + x and no other byte; I advances by x + 1 mod 2^16 exactly under
LOADSTORE_INCREMENTS_I (decisions D12, D30; opcode value G2). -/
def Obligations.StoreRegistersWritesVZeroToVx : Prop :=
  ∀ (x : Reg) (s : State), ∃ t, exec (.ldMIVx x) s = .next t ∧
    (∀ r : Reg, r ≤ x → t.memRead (s.effAddr r.val) = s.readV r) ∧
    MemSameOutside (s.effAddr 0) (x.val + 1) s t ∧
    t.i.toNat = (if s.cfg.loadStoreIncrementsI then (s.i.toNat + x.val + 1) % 65536 else s.i.toNat) ∧
    SameBut [.mem, .i] s t

/-- R214: Fx65 loads V0..Vx from I..I + x and no other register; I as in R213 (decisions D12, D30; opcode value G2). -/
def Obligations.LoadRegistersReadsVZeroToVx : Prop :=
  ∀ (x : Reg) (s : State), ∃ t, exec (.ldVxMI x) s = .next t ∧
    (∀ r : Reg, r ≤ x → t.readV r = s.memRead (s.effAddr r.val)) ∧ (∀ r : Reg, x < r → t.readV r = s.readV r) ∧
    t.i.toNat = (if s.cfg.loadStoreIncrementsI then (s.i.toNat + x.val + 1) % 65536 else s.i.toNat) ∧
    SameBut [.v, .i] s t

/-! ### The host's transactions and the end of a program -/

/-- R204: a tick decrements both timers, each floored at 0, and changes nothing else (the core not faulted; decision D18
is for the faulted core, FaultedCoreTakesNoStep). -/
def Obligations.TickDecrementsBothTimers : Prop :=
  ∀ s : State, s.fault = none → ∃ t, tick s = .next t ∧ t.dt.toNat = s.dt.toNat - 1 ∧ t.st.toNat = s.st.toNat - 1 ∧
    SameBut [.dt, .st, .loadOpen] s t

/-- R206: set_key writes the one key, in any state; a code outside 0..15 is refused (decision D26). -/
def Obligations.SetKeyWritesOneKey : Prop :=
  ∀ (k : Nat) (p : Bool) (s : State),
    (k < 16 → ∃ t, setKey k p s = .next t ∧
      (∀ j : Key, t.pressed j = if j.val = k then p else s.pressed j) ∧ SameBut [.keys] s t) ∧
    (16 ≤ k → setKey k p s = .refused .keyOutOfRange)

/-- R63: load in the constructed state copies the ROM to 0x200 and on and writes no other byte; a ROM over 3584 bytes
writes nothing and records RomTooLarge with word 0 and address 0x200 (decisions D21, D31). -/
def Obligations.LoadCopiesTheRom : Prop :=
  ∀ (c : Config) (rom : List Byte),
    let s := State.resetWith c
    (rom.length ≤ 3584 → ∃ t, load rom s = .next t ∧
      (∀ j b, rom[j]? = some b → t.memRead (0x200 + j) = b) ∧ MemSameOutside 0x200 rom.length s t ∧
      SameBut [.mem, .loadOpen] s t) ∧
    (3584 < rom.length → ∃ t, load rom s = .next t ∧ t.fault = some ⟨.romTooLarge, 0, 0x200⟩ ∧
      SameBut [.fault, .loadOpen] s t)

/-- R254: load is admitted once: after a load, a step or a tick it is refused, whatever schedule of transactions follows,
key changes included (decision D22, log 8). -/
def Obligations.LoadIsAdmittedOnce : Prop :=
  ∀ (tr : Transaction) (rom : List Byte) (s t : State), (∀ k p, tr ≠ .setKey k p) → transact tr s = .next t →
    ∀ (trs : List Transaction) (u : State), transactAll trs t = .next u → load rom u = .refused .loadNotAdmitted

/-- R120: a program that has reached its end at e stays there: a step changes nothing but the step's own bookkeeping (the
spec marks the sentence as derived). -/
def Obligations.EndOfProgramIsAFixedPoint : Prop :=
  ∀ (rnd : Byte) (s : State) (e : Addr), s.AtEnd e →
    ∃ t, stepWith rnd s = .next t ∧ SameBut [.rnd, .loadOpen] s t ∧ t.AtEnd e
end

