-- ==== Sys2Proof/Laws/State.lean ====
section
/-! SUPPORT. What each update of a state leaves in each field: one lemma per field per update. -/

namespace Sys2Proof.Machine

variable (s : State)

/-! ### writeV -/

@[simp] theorem State.cfg_writeV (r : Reg) (b : Byte) : (s.writeV r b).cfg = s.cfg := rfl
@[simp] theorem State.v_writeV (r : Reg) (b : Byte) : (s.writeV r b).v = s.v.set r b := rfl
@[simp] theorem State.i_writeV (r : Reg) (b : Byte) : (s.writeV r b).i = s.i := rfl
@[simp] theorem State.pc_writeV (r : Reg) (b : Byte) : (s.writeV r b).pc = s.pc := rfl
@[simp] theorem State.stack_writeV (r : Reg) (b : Byte) : (s.writeV r b).stack = s.stack := rfl
@[simp] theorem State.sp_writeV (r : Reg) (b : Byte) : (s.writeV r b).sp = s.sp := rfl
@[simp] theorem State.dt_writeV (r : Reg) (b : Byte) : (s.writeV r b).dt = s.dt := rfl
@[simp] theorem State.st_writeV (r : Reg) (b : Byte) : (s.writeV r b).st = s.st := rfl
@[simp] theorem State.mem_writeV (r : Reg) (b : Byte) : (s.writeV r b).mem = s.mem := rfl
@[simp] theorem State.fb_writeV (r : Reg) (b : Byte) : (s.writeV r b).fb = s.fb := rfl
@[simp] theorem State.keys_writeV (r : Reg) (b : Byte) : (s.writeV r b).keys = s.keys := rfl
@[simp] theorem State.wait_writeV (r : Reg) (b : Byte) : (s.writeV r b).wait = s.wait := rfl
@[simp] theorem State.prevKeys_writeV (r : Reg) (b : Byte) : (s.writeV r b).prevKeys = s.prevKeys := rfl
@[simp] theorem State.fault_writeV (r : Reg) (b : Byte) : (s.writeV r b).fault = s.fault := rfl
@[simp] theorem State.rnd_writeV (r : Reg) (b : Byte) : (s.writeV r b).rnd = s.rnd := rfl
@[simp] theorem State.rndIndex_writeV (r : Reg) (b : Byte) : (s.writeV r b).rndIndex = s.rndIndex := rfl
@[simp] theorem State.loadOpen_writeV (r : Reg) (b : Byte) : (s.writeV r b).loadOpen = s.loadOpen := rfl

/-! ### writeI -/

@[simp] theorem State.cfg_writeI (w : Word) : (s.writeI w).cfg = s.cfg := rfl
@[simp] theorem State.v_writeI (w : Word) : (s.writeI w).v = s.v := rfl
@[simp] theorem State.i_writeI (w : Word) : (s.writeI w).i = w := rfl
@[simp] theorem State.pc_writeI (w : Word) : (s.writeI w).pc = s.pc := rfl
@[simp] theorem State.stack_writeI (w : Word) : (s.writeI w).stack = s.stack := rfl
@[simp] theorem State.sp_writeI (w : Word) : (s.writeI w).sp = s.sp := rfl
@[simp] theorem State.dt_writeI (w : Word) : (s.writeI w).dt = s.dt := rfl
@[simp] theorem State.st_writeI (w : Word) : (s.writeI w).st = s.st := rfl
@[simp] theorem State.mem_writeI (w : Word) : (s.writeI w).mem = s.mem := rfl
@[simp] theorem State.fb_writeI (w : Word) : (s.writeI w).fb = s.fb := rfl
@[simp] theorem State.keys_writeI (w : Word) : (s.writeI w).keys = s.keys := rfl
@[simp] theorem State.wait_writeI (w : Word) : (s.writeI w).wait = s.wait := rfl
@[simp] theorem State.prevKeys_writeI (w : Word) : (s.writeI w).prevKeys = s.prevKeys := rfl
@[simp] theorem State.fault_writeI (w : Word) : (s.writeI w).fault = s.fault := rfl
@[simp] theorem State.rnd_writeI (w : Word) : (s.writeI w).rnd = s.rnd := rfl
@[simp] theorem State.rndIndex_writeI (w : Word) : (s.writeI w).rndIndex = s.rndIndex := rfl
@[simp] theorem State.loadOpen_writeI (w : Word) : (s.writeI w).loadOpen = s.loadOpen := rfl

/-! ### writePC -/

@[simp] theorem State.cfg_writePC (w : Word) : (s.writePC w).cfg = s.cfg := rfl
@[simp] theorem State.v_writePC (w : Word) : (s.writePC w).v = s.v := rfl
@[simp] theorem State.i_writePC (w : Word) : (s.writePC w).i = s.i := rfl
@[simp] theorem State.pc_writePC (w : Word) : (s.writePC w).pc = w := rfl
@[simp] theorem State.stack_writePC (w : Word) : (s.writePC w).stack = s.stack := rfl
@[simp] theorem State.sp_writePC (w : Word) : (s.writePC w).sp = s.sp := rfl
@[simp] theorem State.dt_writePC (w : Word) : (s.writePC w).dt = s.dt := rfl
@[simp] theorem State.st_writePC (w : Word) : (s.writePC w).st = s.st := rfl
@[simp] theorem State.mem_writePC (w : Word) : (s.writePC w).mem = s.mem := rfl
@[simp] theorem State.fb_writePC (w : Word) : (s.writePC w).fb = s.fb := rfl
@[simp] theorem State.keys_writePC (w : Word) : (s.writePC w).keys = s.keys := rfl
@[simp] theorem State.wait_writePC (w : Word) : (s.writePC w).wait = s.wait := rfl
@[simp] theorem State.prevKeys_writePC (w : Word) : (s.writePC w).prevKeys = s.prevKeys := rfl
@[simp] theorem State.fault_writePC (w : Word) : (s.writePC w).fault = s.fault := rfl
@[simp] theorem State.rnd_writePC (w : Word) : (s.writePC w).rnd = s.rnd := rfl
@[simp] theorem State.rndIndex_writePC (w : Word) : (s.writePC w).rndIndex = s.rndIndex := rfl
@[simp] theorem State.loadOpen_writePC (w : Word) : (s.writePC w).loadOpen = s.loadOpen := rfl

/-! ### writeDT -/

@[simp] theorem State.cfg_writeDT (b : Byte) : (s.writeDT b).cfg = s.cfg := rfl
@[simp] theorem State.v_writeDT (b : Byte) : (s.writeDT b).v = s.v := rfl
@[simp] theorem State.i_writeDT (b : Byte) : (s.writeDT b).i = s.i := rfl
@[simp] theorem State.pc_writeDT (b : Byte) : (s.writeDT b).pc = s.pc := rfl
@[simp] theorem State.stack_writeDT (b : Byte) : (s.writeDT b).stack = s.stack := rfl
@[simp] theorem State.sp_writeDT (b : Byte) : (s.writeDT b).sp = s.sp := rfl
@[simp] theorem State.dt_writeDT (b : Byte) : (s.writeDT b).dt = b := rfl
@[simp] theorem State.st_writeDT (b : Byte) : (s.writeDT b).st = s.st := rfl
@[simp] theorem State.mem_writeDT (b : Byte) : (s.writeDT b).mem = s.mem := rfl
@[simp] theorem State.fb_writeDT (b : Byte) : (s.writeDT b).fb = s.fb := rfl
@[simp] theorem State.keys_writeDT (b : Byte) : (s.writeDT b).keys = s.keys := rfl
@[simp] theorem State.wait_writeDT (b : Byte) : (s.writeDT b).wait = s.wait := rfl
@[simp] theorem State.prevKeys_writeDT (b : Byte) : (s.writeDT b).prevKeys = s.prevKeys := rfl
@[simp] theorem State.fault_writeDT (b : Byte) : (s.writeDT b).fault = s.fault := rfl
@[simp] theorem State.rnd_writeDT (b : Byte) : (s.writeDT b).rnd = s.rnd := rfl
@[simp] theorem State.rndIndex_writeDT (b : Byte) : (s.writeDT b).rndIndex = s.rndIndex := rfl
@[simp] theorem State.loadOpen_writeDT (b : Byte) : (s.writeDT b).loadOpen = s.loadOpen := rfl

/-! ### writeST -/

@[simp] theorem State.cfg_writeST (b : Byte) : (s.writeST b).cfg = s.cfg := rfl
@[simp] theorem State.v_writeST (b : Byte) : (s.writeST b).v = s.v := rfl
@[simp] theorem State.i_writeST (b : Byte) : (s.writeST b).i = s.i := rfl
@[simp] theorem State.pc_writeST (b : Byte) : (s.writeST b).pc = s.pc := rfl
@[simp] theorem State.stack_writeST (b : Byte) : (s.writeST b).stack = s.stack := rfl
@[simp] theorem State.sp_writeST (b : Byte) : (s.writeST b).sp = s.sp := rfl
@[simp] theorem State.dt_writeST (b : Byte) : (s.writeST b).dt = s.dt := rfl
@[simp] theorem State.st_writeST (b : Byte) : (s.writeST b).st = b := rfl
@[simp] theorem State.mem_writeST (b : Byte) : (s.writeST b).mem = s.mem := rfl
@[simp] theorem State.fb_writeST (b : Byte) : (s.writeST b).fb = s.fb := rfl
@[simp] theorem State.keys_writeST (b : Byte) : (s.writeST b).keys = s.keys := rfl
@[simp] theorem State.wait_writeST (b : Byte) : (s.writeST b).wait = s.wait := rfl
@[simp] theorem State.prevKeys_writeST (b : Byte) : (s.writeST b).prevKeys = s.prevKeys := rfl
@[simp] theorem State.fault_writeST (b : Byte) : (s.writeST b).fault = s.fault := rfl
@[simp] theorem State.rnd_writeST (b : Byte) : (s.writeST b).rnd = s.rnd := rfl
@[simp] theorem State.rndIndex_writeST (b : Byte) : (s.writeST b).rndIndex = s.rndIndex := rfl
@[simp] theorem State.loadOpen_writeST (b : Byte) : (s.writeST b).loadOpen = s.loadOpen := rfl

/-! ### memWrite -/

@[simp] theorem State.cfg_memWrite (a : Nat) (b : Byte) : (s.memWrite a b).cfg = s.cfg := rfl
@[simp] theorem State.v_memWrite (a : Nat) (b : Byte) : (s.memWrite a b).v = s.v := rfl
@[simp] theorem State.i_memWrite (a : Nat) (b : Byte) : (s.memWrite a b).i = s.i := rfl
@[simp] theorem State.pc_memWrite (a : Nat) (b : Byte) : (s.memWrite a b).pc = s.pc := rfl
@[simp] theorem State.stack_memWrite (a : Nat) (b : Byte) : (s.memWrite a b).stack = s.stack := rfl
@[simp] theorem State.sp_memWrite (a : Nat) (b : Byte) : (s.memWrite a b).sp = s.sp := rfl
@[simp] theorem State.dt_memWrite (a : Nat) (b : Byte) : (s.memWrite a b).dt = s.dt := rfl
@[simp] theorem State.st_memWrite (a : Nat) (b : Byte) : (s.memWrite a b).st = s.st := rfl
@[simp] theorem State.fb_memWrite (a : Nat) (b : Byte) : (s.memWrite a b).fb = s.fb := rfl
@[simp] theorem State.keys_memWrite (a : Nat) (b : Byte) : (s.memWrite a b).keys = s.keys := rfl
@[simp] theorem State.wait_memWrite (a : Nat) (b : Byte) : (s.memWrite a b).wait = s.wait := rfl
@[simp] theorem State.prevKeys_memWrite (a : Nat) (b : Byte) : (s.memWrite a b).prevKeys = s.prevKeys := rfl
@[simp] theorem State.fault_memWrite (a : Nat) (b : Byte) : (s.memWrite a b).fault = s.fault := rfl
@[simp] theorem State.rnd_memWrite (a : Nat) (b : Byte) : (s.memWrite a b).rnd = s.rnd := rfl
@[simp] theorem State.rndIndex_memWrite (a : Nat) (b : Byte) : (s.memWrite a b).rndIndex = s.rndIndex := rfl
@[simp] theorem State.loadOpen_memWrite (a : Nat) (b : Byte) : (s.memWrite a b).loadOpen = s.loadOpen := rfl

/-! ### fetchAdvance -/

@[simp] theorem State.cfg_fetchAdvance : (s.fetchAdvance).cfg = s.cfg := rfl
@[simp] theorem State.v_fetchAdvance : (s.fetchAdvance).v = s.v := rfl
@[simp] theorem State.i_fetchAdvance : (s.fetchAdvance).i = s.i := rfl
@[simp] theorem State.pc_fetchAdvance : (s.fetchAdvance).pc = s.pc + 2 := rfl
@[simp] theorem State.stack_fetchAdvance : (s.fetchAdvance).stack = s.stack := rfl
@[simp] theorem State.sp_fetchAdvance : (s.fetchAdvance).sp = s.sp := rfl
@[simp] theorem State.dt_fetchAdvance : (s.fetchAdvance).dt = s.dt := rfl
@[simp] theorem State.st_fetchAdvance : (s.fetchAdvance).st = s.st := rfl
@[simp] theorem State.mem_fetchAdvance : (s.fetchAdvance).mem = s.mem := rfl
@[simp] theorem State.fb_fetchAdvance : (s.fetchAdvance).fb = s.fb := rfl
@[simp] theorem State.keys_fetchAdvance : (s.fetchAdvance).keys = s.keys := rfl
@[simp] theorem State.wait_fetchAdvance : (s.fetchAdvance).wait = s.wait := rfl
@[simp] theorem State.prevKeys_fetchAdvance : (s.fetchAdvance).prevKeys = s.prevKeys := rfl
@[simp] theorem State.fault_fetchAdvance : (s.fetchAdvance).fault = s.fault := rfl
@[simp] theorem State.rnd_fetchAdvance : (s.fetchAdvance).rnd = s.rnd := rfl
@[simp] theorem State.rndIndex_fetchAdvance : (s.fetchAdvance).rndIndex = s.rndIndex := rfl
@[simp] theorem State.loadOpen_fetchAdvance : (s.fetchAdvance).loadOpen = s.loadOpen := rfl

/-! ### beginStep -/

@[simp] theorem State.cfg_beginStep (b : Byte) : (s.beginStep b).cfg = s.cfg := rfl
@[simp] theorem State.v_beginStep (b : Byte) : (s.beginStep b).v = s.v := rfl
@[simp] theorem State.i_beginStep (b : Byte) : (s.beginStep b).i = s.i := rfl
@[simp] theorem State.pc_beginStep (b : Byte) : (s.beginStep b).pc = s.pc := rfl
@[simp] theorem State.stack_beginStep (b : Byte) : (s.beginStep b).stack = s.stack := rfl
@[simp] theorem State.sp_beginStep (b : Byte) : (s.beginStep b).sp = s.sp := rfl
@[simp] theorem State.dt_beginStep (b : Byte) : (s.beginStep b).dt = s.dt := rfl
@[simp] theorem State.st_beginStep (b : Byte) : (s.beginStep b).st = s.st := rfl
@[simp] theorem State.mem_beginStep (b : Byte) : (s.beginStep b).mem = s.mem := rfl
@[simp] theorem State.fb_beginStep (b : Byte) : (s.beginStep b).fb = s.fb := rfl
@[simp] theorem State.keys_beginStep (b : Byte) : (s.beginStep b).keys = s.keys := rfl
@[simp] theorem State.wait_beginStep (b : Byte) : (s.beginStep b).wait = s.wait := rfl
@[simp] theorem State.prevKeys_beginStep (b : Byte) : (s.beginStep b).prevKeys = s.prevKeys := rfl
@[simp] theorem State.fault_beginStep (b : Byte) : (s.beginStep b).fault = s.fault := rfl
@[simp] theorem State.rnd_beginStep (b : Byte) : (s.beginStep b).rnd = b := rfl
@[simp] theorem State.rndIndex_beginStep (b : Byte) : (s.beginStep b).rndIndex = s.rndIndex := rfl
@[simp] theorem State.loadOpen_beginStep (b : Byte) : (s.beginStep b).loadOpen = false := rfl

/-! ### skipIf -/

@[simp] theorem State.cfg_skipIf (c : Bool) : (s.skipIf c).cfg = s.cfg := by cases c <;> rfl
@[simp] theorem State.v_skipIf (c : Bool) : (s.skipIf c).v = s.v := by cases c <;> rfl
@[simp] theorem State.i_skipIf (c : Bool) : (s.skipIf c).i = s.i := by cases c <;> rfl
@[simp] theorem State.pc_skipIf (c : Bool) : (s.skipIf c).pc = if c then s.pc + 2 else s.pc := by cases c <;> rfl
@[simp] theorem State.stack_skipIf (c : Bool) : (s.skipIf c).stack = s.stack := by cases c <;> rfl
@[simp] theorem State.sp_skipIf (c : Bool) : (s.skipIf c).sp = s.sp := by cases c <;> rfl
@[simp] theorem State.dt_skipIf (c : Bool) : (s.skipIf c).dt = s.dt := by cases c <;> rfl
@[simp] theorem State.st_skipIf (c : Bool) : (s.skipIf c).st = s.st := by cases c <;> rfl
@[simp] theorem State.mem_skipIf (c : Bool) : (s.skipIf c).mem = s.mem := by cases c <;> rfl
@[simp] theorem State.fb_skipIf (c : Bool) : (s.skipIf c).fb = s.fb := by cases c <;> rfl
@[simp] theorem State.keys_skipIf (c : Bool) : (s.skipIf c).keys = s.keys := by cases c <;> rfl
@[simp] theorem State.wait_skipIf (c : Bool) : (s.skipIf c).wait = s.wait := by cases c <;> rfl
@[simp] theorem State.prevKeys_skipIf (c : Bool) : (s.skipIf c).prevKeys = s.prevKeys := by cases c <;> rfl
@[simp] theorem State.fault_skipIf (c : Bool) : (s.skipIf c).fault = s.fault := by cases c <;> rfl
@[simp] theorem State.rnd_skipIf (c : Bool) : (s.skipIf c).rnd = s.rnd := by cases c <;> rfl
@[simp] theorem State.rndIndex_skipIf (c : Bool) : (s.skipIf c).rndIndex = s.rndIndex := by cases c <;> rfl
@[simp] theorem State.loadOpen_skipIf (c : Bool) : (s.skipIf c).loadOpen = s.loadOpen := by cases c <;> rfl

/-! ### writeWithFlag -/

@[simp] theorem State.cfg_writeWithFlag (r : Reg) (b : Byte) (f : Bool) : (s.writeWithFlag r b f).cfg = s.cfg := rfl
@[simp] theorem State.v_writeWithFlag (r : Reg) (b : Byte) (f : Bool) : (s.writeWithFlag r b f).v = (s.v.set r b).set vf (flagByte f) := rfl
@[simp] theorem State.i_writeWithFlag (r : Reg) (b : Byte) (f : Bool) : (s.writeWithFlag r b f).i = s.i := rfl
@[simp] theorem State.pc_writeWithFlag (r : Reg) (b : Byte) (f : Bool) : (s.writeWithFlag r b f).pc = s.pc := rfl
@[simp] theorem State.stack_writeWithFlag (r : Reg) (b : Byte) (f : Bool) : (s.writeWithFlag r b f).stack = s.stack := rfl
@[simp] theorem State.sp_writeWithFlag (r : Reg) (b : Byte) (f : Bool) : (s.writeWithFlag r b f).sp = s.sp := rfl
@[simp] theorem State.dt_writeWithFlag (r : Reg) (b : Byte) (f : Bool) : (s.writeWithFlag r b f).dt = s.dt := rfl
@[simp] theorem State.st_writeWithFlag (r : Reg) (b : Byte) (f : Bool) : (s.writeWithFlag r b f).st = s.st := rfl
@[simp] theorem State.mem_writeWithFlag (r : Reg) (b : Byte) (f : Bool) : (s.writeWithFlag r b f).mem = s.mem := rfl
@[simp] theorem State.fb_writeWithFlag (r : Reg) (b : Byte) (f : Bool) : (s.writeWithFlag r b f).fb = s.fb := rfl
@[simp] theorem State.keys_writeWithFlag (r : Reg) (b : Byte) (f : Bool) : (s.writeWithFlag r b f).keys = s.keys := rfl
@[simp] theorem State.wait_writeWithFlag (r : Reg) (b : Byte) (f : Bool) : (s.writeWithFlag r b f).wait = s.wait := rfl
@[simp] theorem State.prevKeys_writeWithFlag (r : Reg) (b : Byte) (f : Bool) : (s.writeWithFlag r b f).prevKeys = s.prevKeys := rfl
@[simp] theorem State.fault_writeWithFlag (r : Reg) (b : Byte) (f : Bool) : (s.writeWithFlag r b f).fault = s.fault := rfl
@[simp] theorem State.rnd_writeWithFlag (r : Reg) (b : Byte) (f : Bool) : (s.writeWithFlag r b f).rnd = s.rnd := rfl
@[simp] theorem State.rndIndex_writeWithFlag (r : Reg) (b : Byte) (f : Bool) : (s.writeWithFlag r b f).rndIndex = s.rndIndex := rfl
@[simp] theorem State.loadOpen_writeWithFlag (r : Reg) (b : Byte) (f : Bool) : (s.writeWithFlag r b f).loadOpen = s.loadOpen := rfl

/-! ### writeLogic -/

@[simp] theorem State.cfg_writeLogic (r : Reg) (b : Byte) : (s.writeLogic r b).cfg = s.cfg := by unfold State.writeLogic; split <;> rfl
@[simp] theorem State.i_writeLogic (r : Reg) (b : Byte) : (s.writeLogic r b).i = s.i := by unfold State.writeLogic; split <;> rfl
@[simp] theorem State.pc_writeLogic (r : Reg) (b : Byte) : (s.writeLogic r b).pc = s.pc := by unfold State.writeLogic; split <;> rfl
@[simp] theorem State.stack_writeLogic (r : Reg) (b : Byte) : (s.writeLogic r b).stack = s.stack := by unfold State.writeLogic; split <;> rfl
@[simp] theorem State.sp_writeLogic (r : Reg) (b : Byte) : (s.writeLogic r b).sp = s.sp := by unfold State.writeLogic; split <;> rfl
@[simp] theorem State.dt_writeLogic (r : Reg) (b : Byte) : (s.writeLogic r b).dt = s.dt := by unfold State.writeLogic; split <;> rfl
@[simp] theorem State.st_writeLogic (r : Reg) (b : Byte) : (s.writeLogic r b).st = s.st := by unfold State.writeLogic; split <;> rfl
@[simp] theorem State.mem_writeLogic (r : Reg) (b : Byte) : (s.writeLogic r b).mem = s.mem := by unfold State.writeLogic; split <;> rfl
@[simp] theorem State.fb_writeLogic (r : Reg) (b : Byte) : (s.writeLogic r b).fb = s.fb := by unfold State.writeLogic; split <;> rfl
@[simp] theorem State.keys_writeLogic (r : Reg) (b : Byte) : (s.writeLogic r b).keys = s.keys := by unfold State.writeLogic; split <;> rfl
@[simp] theorem State.wait_writeLogic (r : Reg) (b : Byte) : (s.writeLogic r b).wait = s.wait := by unfold State.writeLogic; split <;> rfl
@[simp] theorem State.prevKeys_writeLogic (r : Reg) (b : Byte) : (s.writeLogic r b).prevKeys = s.prevKeys := by unfold State.writeLogic; split <;> rfl
@[simp] theorem State.fault_writeLogic (r : Reg) (b : Byte) : (s.writeLogic r b).fault = s.fault := by unfold State.writeLogic; split <;> rfl
@[simp] theorem State.rnd_writeLogic (r : Reg) (b : Byte) : (s.writeLogic r b).rnd = s.rnd := by unfold State.writeLogic; split <;> rfl
@[simp] theorem State.rndIndex_writeLogic (r : Reg) (b : Byte) : (s.writeLogic r b).rndIndex = s.rndIndex := by unfold State.writeLogic; split <;> rfl
@[simp] theorem State.loadOpen_writeLogic (r : Reg) (b : Byte) : (s.writeLogic r b).loadOpen = s.loadOpen := by unfold State.writeLogic; split <;> rfl

/-! ### stepI -/

@[simp] theorem State.cfg_stepI (x : Reg) : (s.stepI x).cfg = s.cfg := by unfold State.stepI; split <;> rfl
@[simp] theorem State.v_stepI (x : Reg) : (s.stepI x).v = s.v := by unfold State.stepI; split <;> rfl
@[simp] theorem State.pc_stepI (x : Reg) : (s.stepI x).pc = s.pc := by unfold State.stepI; split <;> rfl
@[simp] theorem State.stack_stepI (x : Reg) : (s.stepI x).stack = s.stack := by unfold State.stepI; split <;> rfl
@[simp] theorem State.sp_stepI (x : Reg) : (s.stepI x).sp = s.sp := by unfold State.stepI; split <;> rfl
@[simp] theorem State.dt_stepI (x : Reg) : (s.stepI x).dt = s.dt := by unfold State.stepI; split <;> rfl
@[simp] theorem State.st_stepI (x : Reg) : (s.stepI x).st = s.st := by unfold State.stepI; split <;> rfl
@[simp] theorem State.mem_stepI (x : Reg) : (s.stepI x).mem = s.mem := by unfold State.stepI; split <;> rfl
@[simp] theorem State.fb_stepI (x : Reg) : (s.stepI x).fb = s.fb := by unfold State.stepI; split <;> rfl
@[simp] theorem State.keys_stepI (x : Reg) : (s.stepI x).keys = s.keys := by unfold State.stepI; split <;> rfl
@[simp] theorem State.wait_stepI (x : Reg) : (s.stepI x).wait = s.wait := by unfold State.stepI; split <;> rfl
@[simp] theorem State.prevKeys_stepI (x : Reg) : (s.stepI x).prevKeys = s.prevKeys := by unfold State.stepI; split <;> rfl
@[simp] theorem State.fault_stepI (x : Reg) : (s.stepI x).fault = s.fault := by unfold State.stepI; split <;> rfl
@[simp] theorem State.rnd_stepI (x : Reg) : (s.stepI x).rnd = s.rnd := by unfold State.stepI; split <;> rfl
@[simp] theorem State.rndIndex_stepI (x : Reg) : (s.stepI x).rndIndex = s.rndIndex := by unfold State.stepI; split <;> rfl
@[simp] theorem State.loadOpen_stepI (x : Reg) : (s.stepI x).loadOpen = s.loadOpen := by unfold State.stepI; split <;> rfl

/-! ### memWriteList -/

@[simp] theorem State.cfg_memWriteList (s : State) (a : Nat) (bs : List Byte) : (s.memWriteList a bs).cfg = s.cfg := by
  induction bs generalizing s a with
  | nil => rfl
  | cons b bs ih => exact ih _ _
@[simp] theorem State.v_memWriteList (s : State) (a : Nat) (bs : List Byte) : (s.memWriteList a bs).v = s.v := by
  induction bs generalizing s a with
  | nil => rfl
  | cons b bs ih => exact ih _ _
@[simp] theorem State.i_memWriteList (s : State) (a : Nat) (bs : List Byte) : (s.memWriteList a bs).i = s.i := by
  induction bs generalizing s a with
  | nil => rfl
  | cons b bs ih => exact ih _ _
@[simp] theorem State.pc_memWriteList (s : State) (a : Nat) (bs : List Byte) : (s.memWriteList a bs).pc = s.pc := by
  induction bs generalizing s a with
  | nil => rfl
  | cons b bs ih => exact ih _ _
@[simp] theorem State.stack_memWriteList (s : State) (a : Nat) (bs : List Byte) : (s.memWriteList a bs).stack = s.stack := by
  induction bs generalizing s a with
  | nil => rfl
  | cons b bs ih => exact ih _ _
@[simp] theorem State.sp_memWriteList (s : State) (a : Nat) (bs : List Byte) : (s.memWriteList a bs).sp = s.sp := by
  induction bs generalizing s a with
  | nil => rfl
  | cons b bs ih => exact ih _ _
@[simp] theorem State.dt_memWriteList (s : State) (a : Nat) (bs : List Byte) : (s.memWriteList a bs).dt = s.dt := by
  induction bs generalizing s a with
  | nil => rfl
  | cons b bs ih => exact ih _ _
@[simp] theorem State.st_memWriteList (s : State) (a : Nat) (bs : List Byte) : (s.memWriteList a bs).st = s.st := by
  induction bs generalizing s a with
  | nil => rfl
  | cons b bs ih => exact ih _ _
@[simp] theorem State.fb_memWriteList (s : State) (a : Nat) (bs : List Byte) : (s.memWriteList a bs).fb = s.fb := by
  induction bs generalizing s a with
  | nil => rfl
  | cons b bs ih => exact ih _ _
@[simp] theorem State.keys_memWriteList (s : State) (a : Nat) (bs : List Byte) : (s.memWriteList a bs).keys = s.keys := by
  induction bs generalizing s a with
  | nil => rfl
  | cons b bs ih => exact ih _ _
@[simp] theorem State.wait_memWriteList (s : State) (a : Nat) (bs : List Byte) : (s.memWriteList a bs).wait = s.wait := by
  induction bs generalizing s a with
  | nil => rfl
  | cons b bs ih => exact ih _ _
@[simp] theorem State.prevKeys_memWriteList (s : State) (a : Nat) (bs : List Byte) : (s.memWriteList a bs).prevKeys = s.prevKeys := by
  induction bs generalizing s a with
  | nil => rfl
  | cons b bs ih => exact ih _ _
@[simp] theorem State.fault_memWriteList (s : State) (a : Nat) (bs : List Byte) : (s.memWriteList a bs).fault = s.fault := by
  induction bs generalizing s a with
  | nil => rfl
  | cons b bs ih => exact ih _ _
@[simp] theorem State.rnd_memWriteList (s : State) (a : Nat) (bs : List Byte) : (s.memWriteList a bs).rnd = s.rnd := by
  induction bs generalizing s a with
  | nil => rfl
  | cons b bs ih => exact ih _ _
@[simp] theorem State.rndIndex_memWriteList (s : State) (a : Nat) (bs : List Byte) : (s.memWriteList a bs).rndIndex = s.rndIndex := by
  induction bs generalizing s a with
  | nil => rfl
  | cons b bs ih => exact ih _ _
@[simp] theorem State.loadOpen_memWriteList (s : State) (a : Nat) (bs : List Byte) : (s.memWriteList a bs).loadOpen = s.loadOpen := by
  induction bs generalizing s a with
  | nil => rfl
  | cons b bs ih => exact ih _ _

/-! ### Reads through an update -/

@[simp] theorem State.readV_writeV_same (s : State) (r : Reg) (b : Byte) : (s.writeV r b).readV r = b := by
  simp [State.readV, State.writeV]

theorem State.readV_writeV_ne (s : State) {r q : Reg} (b : Byte) (h : q ≠ r) : (s.writeV r b).readV q = s.readV q := by
  have : r.val ≠ q.val := fun e => h (Fin.ext e.symm)
  simp [State.readV, State.writeV, this]

theorem State.readV_writeV (s : State) (r q : Reg) (b : Byte) :
    (s.writeV r b).readV q = if q = r then b else s.readV q := by
  split
  · subst q; simp
  · exact s.readV_writeV_ne b ‹_›

/-- A register reads the same in two states that hold the same registers. -/
theorem State.readV_congr {s t : State} (h : t.v = s.v) (r : Reg) : t.readV r = s.readV r := by
  simp [State.readV, h]

/-- A byte reads the same in two states that hold the same memory under the same configuration. -/
theorem State.memRead_congr {s t : State} (hc : t.cfg = s.cfg) (hm : t.mem = s.mem) (a : Nat) :
    t.memRead a = s.memRead a := by
  simp [State.memRead, hc, hm]


@[simp] theorem State.memRead_writeV (r : Reg) (b : Byte) (a : Nat) : (s.writeV r b).memRead a = s.memRead a :=
  State.memRead_congr (by simp) (by simp) a
@[simp] theorem State.readV_writeI (w : Word) (q : Reg) : (s.writeI w).readV q = s.readV q := State.readV_congr (by simp) q
@[simp] theorem State.memRead_writeI (w : Word) (a : Nat) : (s.writeI w).memRead a = s.memRead a :=
  State.memRead_congr (by simp) (by simp) a
@[simp] theorem State.readV_writePC (w : Word) (q : Reg) : (s.writePC w).readV q = s.readV q := State.readV_congr (by simp) q
@[simp] theorem State.memRead_writePC (w : Word) (a : Nat) : (s.writePC w).memRead a = s.memRead a :=
  State.memRead_congr (by simp) (by simp) a
@[simp] theorem State.readV_writeDT (b : Byte) (q : Reg) : (s.writeDT b).readV q = s.readV q := State.readV_congr (by simp) q
@[simp] theorem State.memRead_writeDT (b : Byte) (a : Nat) : (s.writeDT b).memRead a = s.memRead a :=
  State.memRead_congr (by simp) (by simp) a
@[simp] theorem State.readV_writeST (b : Byte) (q : Reg) : (s.writeST b).readV q = s.readV q := State.readV_congr (by simp) q
@[simp] theorem State.memRead_writeST (b : Byte) (a : Nat) : (s.writeST b).memRead a = s.memRead a :=
  State.memRead_congr (by simp) (by simp) a
@[simp] theorem State.readV_memWrite (a : Nat) (b : Byte) (q : Reg) : (s.memWrite a b).readV q = s.readV q := State.readV_congr (by simp) q
@[simp] theorem State.readV_fetchAdvance (q : Reg) : (s.fetchAdvance).readV q = s.readV q := State.readV_congr (by simp) q
@[simp] theorem State.memRead_fetchAdvance (a : Nat) : (s.fetchAdvance).memRead a = s.memRead a :=
  State.memRead_congr (by simp) (by simp) a
@[simp] theorem State.readV_beginStep (b : Byte) (q : Reg) : (s.beginStep b).readV q = s.readV q := State.readV_congr (by simp) q
@[simp] theorem State.memRead_beginStep (b : Byte) (a : Nat) : (s.beginStep b).memRead a = s.memRead a :=
  State.memRead_congr (by simp) (by simp) a
@[simp] theorem State.readV_skipIf (c : Bool) (q : Reg) : (s.skipIf c).readV q = s.readV q := State.readV_congr (by simp) q
@[simp] theorem State.memRead_skipIf (c : Bool) (a : Nat) : (s.skipIf c).memRead a = s.memRead a :=
  State.memRead_congr (by simp) (by simp) a
@[simp] theorem State.memRead_writeWithFlag (r : Reg) (b : Byte) (f : Bool) (a : Nat) : (s.writeWithFlag r b f).memRead a = s.memRead a :=
  State.memRead_congr (by simp) (by simp) a
@[simp] theorem State.memRead_writeLogic (r : Reg) (b : Byte) (a : Nat) : (s.writeLogic r b).memRead a = s.memRead a :=
  State.memRead_congr (by simp) (by simp) a
@[simp] theorem State.readV_stepI (x : Reg) (q : Reg) : (s.stepI x).readV q = s.readV q := State.readV_congr (by simp) q
@[simp] theorem State.memRead_stepI (x : Reg) (a : Nat) : (s.stepI x).memRead a = s.memRead a :=
  State.memRead_congr (by simp) (by simp) a
@[simp] theorem State.readV_memWriteList (a : Nat) (bs : List Byte) (q : Reg) :
    (s.memWriteList a bs).readV q = s.readV q := State.readV_congr (by simp) q

end Sys2Proof.Machine
end

