-- ==== Sys2Proof/Laws/Memory.lean ====
section
/-! SUPPORT. The laws of the memory list: a read after a write, and that every memory operation keeps the canonical
form. -/

namespace Sys2Proof.Machine

theorem Memory.find_put_same (m : Memory) (a : Nat) (b : Byte) : Memory.find (Memory.put a b m) a = some b := by
  induction m with
  | nil => simp [Memory.put, Memory.find]
  | cons cell m ih =>
    unfold Memory.put
    split
    · simp [Memory.find]
    · split
      · simp [Memory.find]
      · have : cell.1 ≠ a := fun e => ‹¬ a = cell.1› e.symm
        simpa [Memory.find, this] using ih

theorem Memory.find_put_ne (m : Memory) {a c : Nat} (b : Byte) (h : c ≠ a) :
    Memory.find (Memory.put a b m) c = Memory.find m c := by
  induction m with
  | nil => simp [Memory.put, Memory.find, Ne.symm h]
  | cons cell m ih =>
    unfold Memory.put
    split
    · simp [Memory.find, Ne.symm h]
    · split
      · rename_i e
        simp [Memory.find, Ne.symm h, ← e]
      · by_cases hc : cell.1 = c <;> simp [Memory.find, hc, ih]

theorem Memory.find_erase_same (m : Memory) (a : Nat) : Memory.find (Memory.erase a m) a = none := by
  induction m with
  | nil => rfl
  | cons cell m ih =>
    by_cases hc : cell.1 = a
    · simpa [Memory.erase, List.filter_cons, hc] using ih
    · simp only [Memory.erase, List.filter_cons, hc, ne_eq, not_false_eq_true, decide_true, if_true, Memory.find,
        if_false]
      exact ih

theorem Memory.find_erase_ne (m : Memory) {a c : Nat} (h : c ≠ a) :
    Memory.find (Memory.erase a m) c = Memory.find m c := by
  induction m with
  | nil => rfl
  | cons cell m ih =>
    by_cases hc : cell.1 = a
    · have : cell.1 ≠ c := fun e => h (e.symm.trans hc)
      simp only [Memory.find, this, if_false]
      simpa [Memory.erase, List.filter_cons, hc] using ih
    · by_cases hcc : cell.1 = c
      · simp [Memory.erase, Memory.find, hcc, h]
      · simp only [Memory.erase, List.filter_cons, hc, ne_eq, not_false_eq_true, decide_true, if_true, Memory.find, hcc,
          if_false]
        exact ih

/-- A read of the address just written gives the byte written, whatever the list. -/
theorem Memory.read_write_same (dflt : Nat → Byte) (m : Memory) (a : Nat) (b : Byte) :
    Memory.read dflt (Memory.write dflt m a b) a = b := by
  unfold Memory.read Memory.write
  split
  · simp [Memory.find_erase_same, *]
  · simp [Memory.find_put_same]

/-- A write leaves every other address alone, whatever the list. -/
theorem Memory.read_write_ne (dflt : Nat → Byte) (m : Memory) {a c : Nat} (b : Byte) (h : c ≠ a) :
    Memory.read dflt (Memory.write dflt m a b) c = Memory.read dflt m c := by
  unfold Memory.read Memory.write
  split
  · simp [Memory.find_erase_ne m h]
  · simp [Memory.find_put_ne m b h]

theorem Memory.mem_put {m : Memory} {a : Nat} {b : Byte} {cell : Host.Cell} (h : cell ∈ Memory.put a b m) :
    cell = (a, b) ∨ cell ∈ m := by
  induction m with
  | nil => simpa [Memory.put] using h
  | cons c m ih =>
    unfold Memory.put at h
    split at h
    · simpa using h
    · split at h
      · rcases List.mem_cons.1 h with h | h
        · exact .inl h
        · exact .inr (List.mem_cons_of_mem _ h)
      · rcases List.mem_cons.1 h with h | h
        · exact .inr (h ▸ List.mem_cons_self)
        · rcases ih h with h | h
          · exact .inl h
          · exact .inr (List.mem_cons_of_mem _ h)

theorem Memory.pairwise_put {m : Memory} (a : Nat) (b : Byte) (h : m.Pairwise (fun c d => c.1 < d.1)) :
    (Memory.put a b m).Pairwise (fun c d => c.1 < d.1) := by
  induction m with
  | nil => simp [Memory.put]
  | cons c m ih =>
    obtain ⟨hc, hm⟩ := List.pairwise_cons.1 h
    unfold Memory.put
    split
    · refine List.pairwise_cons.2 ⟨?_, h⟩
      intro d hd
      rcases List.mem_cons.1 hd with rfl | hd
      · assumption
      · exact Nat.lt_trans ‹_› (hc d hd)
    · split
      · refine List.pairwise_cons.2 ⟨?_, hm⟩
        intro d hd
        have := hc d hd
        simp_all
      · refine List.pairwise_cons.2 ⟨?_, ih hm⟩
        intro d hd
        rcases Memory.mem_put hd with rfl | hd
        · simp only; omega
        · exact hc d hd

/-- A write inside the address space keeps the canonical form. -/
theorem Memory.wf_write {dflt : Nat → Byte} {m : Memory} (h : Memory.wf dflt m) {a : Nat} (ha : a < Config.memSize)
    (b : Byte) : Memory.wf dflt (Memory.write dflt m a b) := by
  unfold Memory.write
  split
  · exact ⟨h.1.filter _, fun cell hc => h.2 cell (List.mem_of_mem_filter hc)⟩
  · refine ⟨Memory.pairwise_put a b h.1, fun cell hc => ?_⟩
    rcases Memory.mem_put hc with rfl | hc
    · exact ⟨ha, ‹_›⟩
    · exact h.2 cell hc

/-- `MemWrite` keeps the canonical form. -/
theorem State.memWrite_wf {s : State} (h : Memory.wf (resetByte s.cfg) s.mem) (a : Nat) (b : Byte) :
    Memory.wf (resetByte (s.memWrite a b).cfg) (s.memWrite a b).mem :=
  Memory.wf_write h (Nat.mod_lt _ (by decide)) b

/-- Writing a list of bytes keeps the canonical form. -/
theorem State.memWriteList_wf {s : State} (h : Memory.wf (resetByte s.cfg) s.mem) (a : Nat) (bs : List Byte) :
    Memory.wf (resetByte (s.memWriteList a bs).cfg) (s.memWriteList a bs).mem := by
  induction bs generalizing s a with
  | nil => exact h
  | cons b bs ih => exact ih (State.memWrite_wf h a b) (a + 1)

/-- The constructed core's memory is in the canonical form: it lists nothing. -/
theorem State.resetWith_wf (c : Config) : Memory.wf (resetByte (State.resetWith c).cfg) (State.resetWith c).mem := by
  simp [Memory.wf, State.resetWith]

theorem State.reset_wf : Memory.wf (resetByte State.reset.cfg) State.reset.mem := State.resetWith_wf _

end Sys2Proof.Machine
end

