-- ==== Sys2Proof/Laws/Ops.lean ====
section
/-! SUPPORT. One lemma per shared operation, saying once everything it can do. -/

namespace Sys2Proof.Machine

/-- `push` answers exactly when the stack is not full, and then writes the entry at SP and counts it (R30). -/
theorem State.push_eq_some {s t : State} {w : Word} :
    s.push w = some t ↔
      s.sp ≠ s.cfg.stackDepth ∧ t = { s with stack := s.stack.set s.sp w, sp := s.sp + 1 } := by
  unfold State.push
  split <;> simp_all [eq_comm]

theorem State.push_eq_none {s : State} {w : Word} : s.push w = none ↔ s.sp = s.cfg.stackDepth := by
  unfold State.push
  split <;> simp_all

/-- `pop` answers exactly when the stack is not empty, with the entry below SP (R31). -/
theorem State.pop_eq_some {s t : State} {w : Word} :
    s.pop = some (w, t) ↔ s.sp ≠ 0 ∧ w = s.stack.getD (s.sp - 1) 0 ∧ t = { s with sp := s.sp - 1 } := by
  unfold State.pop
  split <;> simp_all [eq_comm]

theorem State.pop_eq_none {s : State} : s.pop = none ↔ s.sp = 0 := by
  unfold State.pop
  split <;> simp_all

/-- A byte names a key exactly when it is at most 15 (R178). -/
theorem keyOfByte_eq_some {b : Byte} {k : Key} : keyOfByte b = some k ↔ b.toNat = k.val := by
  unfold keyOfByte
  split
  · simp [Fin.ext_iff]
  · have := k.isLt
    simp; omega

theorem keyOfByte_eq_none {b : Byte} : keyOfByte b = none ↔ 15 < b.toNat := by
  unfold keyOfByte
  split <;> simp <;> omega

/-- Raising a fault always answers a next state: the record is kept and nothing else changes (R222). -/
theorem raise_eq_next {kind : FaultKind} {word addr : Word} {s t : State} :
    raise kind word addr s = .next t ↔ t = { s with fault := some ⟨kind, word, addr⟩ } := by
  simp [raise, eq_comm]

theorem raiseBy_eq_next {kind : FaultKind} {i : Instr} {s t : State} :
    raiseBy kind i s = .next t ↔ t = { s with fault := some ⟨kind, encode i, s.pc - 2⟩ } := raise_eq_next

/-- A pixel after one XOR: only the pixel named is inverted (R191). -/
theorem Framebuffer.pixel_toggle (f : Framebuffer) (px qx : Fin 64) (py qy : Fin 32) :
    Framebuffer.pixel (Framebuffer.toggle f px py) qx qy =
      (Framebuffer.pixel f qx qy ^^ decide (qx = px ∧ qy = py)) := by
  unfold Framebuffer.pixel Framebuffer.toggle
  by_cases hy : qy = py
  · subst hy
    simp [Fin.ext_iff]
  · have : py.val ≠ qy.val := fun e => hy (Fin.ext e.symm)
    simp [hy, this]

/-- Two framebuffers with the same pixels are the same. -/
theorem Framebuffer.ext {f g : Framebuffer}
    (h : ∀ px py, Framebuffer.pixel f px py = Framebuffer.pixel g px py) : f = g := by
  apply Vector.ext
  intro y hy
  apply BitVec.eq_of_getLsbD_eq
  intro x hx
  exact h ⟨x, hx⟩ ⟨y, hy⟩

/-- The registers V0..Vx are those whose index is at most x (R213, R214). -/
theorem mem_regsUpTo {x r : Reg} : r ∈ regsUpTo x ↔ r ≤ x := by
  simp [regsUpTo]

theorem length_regsUpTo (x : Reg) : (regsUpTo x).length = x.val + 1 := by
  revert x; decide

theorem regsUpTo_get (x : Reg) (k : Nat) (h : k < (regsUpTo x).length) : ((regsUpTo x)[k]).val = k := by
  have : ∀ x : Reg, ∀ k : Fin (x.val + 1), ((regsUpTo x)[k.val]?).map Fin.val = some k.val := by decide
  have := this x ⟨k, length_regsUpTo x ▸ h⟩
  simpa [List.getElem?_eq_getElem h] using this

/-- The first newly pressed key is newly pressed, and no smaller one is (R111). -/
theorem State.firstNewKey_eq_some {s : State} {k : Key} :
    s.firstNewKey = some k ↔ s.newlyPressed k = true ∧ ∀ j < k, s.newlyPressed j = false := by
  unfold State.firstNewKey
  rw [List.find?_eq_some_iff_getElem]
  constructor
  · rintro ⟨hk, n, hn, e, hj⟩
    refine ⟨hk, fun j hjk => ?_⟩
    simp at e
    have hjn : j.val < n := by subst e; exact hjk
    have := hj j.val hjn
    simpa using this
  · rintro ⟨hk, hj⟩
    refine ⟨hk, k.val, by simp, by simp, fun j hjk => ?_⟩
    have hlt : j < 16 := Nat.lt_trans hjk k.isLt
    simpa using hj ⟨j, hlt⟩ hjk

theorem State.firstNewKey_eq_none {s : State} :
    s.firstNewKey = none ↔ ∀ k, s.newlyPressed k = false := by
  simp [State.firstNewKey]

end Sys2Proof.Machine
end

