-- ==== Sys2Proof/Laws/Cycle.lean ====
section
/-! SUPPORT. What a step can do, said once: three cases, by the fault and the wait. -/

namespace Sys2Proof.Machine

/-- With a fault pending a step has no transition (R110). -/
theorem stepWith_halted (rnd : Byte) {s : State} {r : FaultRecord} (hf : s.fault = some r) :
    stepWith rnd s = .fault (.halted r) := by
  simp only [stepWith, hf]

/-- With a wait pending a step is the re-check (R111). -/
theorem stepWith_waiting (rnd : Byte) {s : State} {x : Reg} (hf : s.fault = none) (hw : s.wait = some x) :
    stepWith rnd s = .next ((s.beginStep rnd).waitRecheck x) := by
  simp only [stepWith, hf, hw]

/-- With neither pending a step is the fetched instruction at the advanced PC, or the record of the unknown word
(R112 to R115). -/
theorem stepWith_fetching (rnd : Byte) {s : State} (hf : s.fault = none) (hw : s.wait = none) :
    stepWith rnd s = match decodeWord s.cfg.strict59 s.fetchWord with
      | .ok i => exec i { s with pc := s.pc + 2, rnd := rnd, loadOpen := false }
      | .error _ => .next { s with pc := s.pc + 2, rnd := rnd, loadOpen := false,
                                   fault := some ⟨.unknownOpcode, s.fetchWord, s.pc⟩ } := by
  have h : stepWith rnd s = fetchExec (s.beginStep rnd) := by simp only [stepWith, hf, hw]
  rw [h]
  unfold fetchExec
  rw [show (s.beginStep rnd).fetchWord = s.fetchWord from rfl, show (s.beginStep rnd).cfg = s.cfg from rfl]
  cases decodeWord s.cfg.strict59 s.fetchWord <;> rfl

end Sys2Proof.Machine
end

