-- ==== Sys2Proof/Laws/Display.lean ====
section
/-! SUPPORT. What drawing a list of pixels does, and which pixels a sprite's list holds. -/

namespace Sys2Proof.Machine

/-- Drawing distinct pixels inverts exactly those, and collides exactly when one of them was on (R191). -/
theorem drawPixels_spec (ps : List (Fin 64 × Fin 32)) (hn : ps.Nodup) (f : Framebuffer) (b : Bool) :
    (∀ px py, Framebuffer.pixel (ps.foldl drawPixel (f, b)).1 px py =
      (Framebuffer.pixel f px py ^^ decide ((px, py) ∈ ps))) ∧
    ((ps.foldl drawPixel (f, b)).2 = true ↔ b = true ∨ ∃ p ∈ ps, Framebuffer.pixel f p.1 p.2 = true) := by
  induction ps generalizing f b with
  | nil => simp
  | cons p ps ih =>
    obtain ⟨h1, h2⟩ := List.nodup_cons.1 hn
    obtain ⟨i1, i2⟩ := ih h2 (Framebuffer.toggle f p.1 p.2) (b || Framebuffer.pixel f p.1 p.2)
    rw [List.foldl_cons]
    constructor
    · intro px py
      rw [drawPixel, i1, Framebuffer.pixel_toggle]
      by_cases e : (px, py) = p
      · subst e
        simp [h1]
      · have : ¬ (px = p.1 ∧ py = p.2) := fun h => e (Prod.ext h.1 h.2)
        simp [this, e]
    · have : (∃ q ∈ ps, Framebuffer.pixel (Framebuffer.toggle f p.1 p.2) q.1 q.2 = true) ↔
          ∃ q ∈ ps, Framebuffer.pixel f q.1 q.2 = true := by
        refine exists_congr fun q => and_congr_right fun hq => ?_
        have : ¬ (q.1 = p.1 ∧ q.2 = p.2) := fun h => h1 (Prod.ext h.1 h.2 ▸ hq)
        rw [Framebuffer.pixel_toggle]
        simp [this]
      rw [drawPixel, i2, this]
      simp [or_assoc]

/-- The pixels of a sprite's list are those its set bits cover. -/
theorem State.mem_spritePixels (s : State) (vx vy : Byte) (n : Nat) (px : Fin 64) (py : Fin 32) :
    (px, py) ∈ s.spritePixels vx vy n ↔ s.SpriteCovers vx vy n px py := by
  simp only [State.spritePixels, rowPixels, State.SpriteCovers, List.mem_flatMap, List.mem_filterMap, List.mem_range,
    State.effAddr, spriteCol, spriteRow]
  refine exists_congr fun r => and_congr_right fun _ => exists_congr fun c => and_congr_right fun _ => ?_
  by_cases h : (s.memRead (s.i.toNat + r)).getLsbD (7 - c) = true
  · simp [h, Fin.ext_iff, Fin.ofNat]
  · simp [h]

theorem rowPixels_nodup (vx vy : Byte) (r : Nat) (b : Byte) : (rowPixels vx vy r b).Nodup := by
  unfold rowPixels
  rw [List.Nodup, List.pairwise_filterMap]
  refine (List.nodup_range (n := 8)).imp_of_mem ?_
  intro c d hc hd hcd p hp q hq
  simp at hc hd hp hq
  obtain ⟨_, rfl⟩ := hp
  obtain ⟨_, rfl⟩ := hq
  intro e
  have := congrArg (fun z => z.1.val) e
  simp [spriteCol, Fin.ofNat] at this
  omega

/-- No pixel is visited twice: at most 8 columns of 64 and 15 rows of 32. -/
theorem State.spritePixels_nodup (s : State) (vx vy : Byte) (n : Nat) (hn : n ≤ 32) :
    (s.spritePixels vx vy n).Nodup := by
  unfold State.spritePixels
  rw [List.nodup_flatMap]
  refine ⟨fun r _ => rowPixels_nodup _ _ _ _, (List.nodup_range (n := n)).imp_of_mem ?_⟩
  intro c d hc hd hcd p hp hq
  simp [rowPixels] at hc hd hp hq
  obtain ⟨_, _, _, rfl⟩ := hp
  obtain ⟨_, _, _, e⟩ := hq
  have := congrArg (fun z => z.2.val) e
  simp [spriteRow, Fin.ofNat] at this
  omega

end Sys2Proof.Machine
end

