-- ==== Sys2Proof/Laws/Encoding.lean ====
section
/-! SUPPORT. The fields of a packed word are the fields it was packed from (30_encoding.md R81). -/

namespace Sys2Proof

@[simp] theorem toFin_regField (r : Reg) : (regField r).toFin = r := rfl

@[simp] theorem regField_toFin (b : BitVec 4) : regField b.toFin = b := rfl

/-- The low part of a concatenation. -/
theorem extractLsb'_append_low {v w : Nat} (a : BitVec v) (b : BitVec w) : (a ++ b).extractLsb' 0 w = b :=
  (BitVec.extractLsb'_append_eq_of_add_le (by omega)).trans BitVec.extractLsb'_eq_self

/-- A field above the low part of a concatenation is a field of the high part. -/
theorem extractLsb'_append_high {v w : Nat} (a : BitVec v) (b : BitVec w) (k len : Nat) :
    (a ++ b).extractLsb' (k + w) len = a.extractLsb' k len :=
  (BitVec.extractLsb'_append_eq_of_le (by omega)).trans (by rw [Nat.add_sub_cancel])

theorem groupOf_packXYN (g : Nibble) (x y : Reg) (n : Nibble) : groupOf (packXYN g x y n) = g.toFin :=
  congrArg BitVec.toFin <| (extractLsb'_append_high _ n 8 4).trans <|
    (extractLsb'_append_high _ (regField y) 4 4).trans <|
    (extractLsb'_append_high g (regField x) 0 4).trans BitVec.extractLsb'_eq_self

theorem xOf_packXYN (g : Nibble) (x y : Reg) (n : Nibble) : xOf (packXYN g x y n) = x :=
  congrArg BitVec.toFin <| (extractLsb'_append_high _ n 4 4).trans <|
    (extractLsb'_append_high _ (regField y) 0 4).trans (extractLsb'_append_low g (regField x))

theorem yOf_packXYN (g : Nibble) (x y : Reg) (n : Nibble) : yOf (packXYN g x y n) = y :=
  congrArg BitVec.toFin <| (extractLsb'_append_high _ n 0 4).trans (extractLsb'_append_low _ (regField y))

theorem nOf_packXYN (g : Nibble) (x y : Reg) (n : Nibble) : nOf (packXYN g x y n) = n :=
  extractLsb'_append_low (g ++ regField x ++ regField y) n

theorem groupOf_packXKK (g : Nibble) (x : Reg) (kk : Byte) : groupOf (packXKK g x kk) = g.toFin :=
  congrArg BitVec.toFin <| (extractLsb'_append_high _ kk 4 4).trans <|
    (extractLsb'_append_high g (regField x) 0 4).trans BitVec.extractLsb'_eq_self

theorem xOf_packXKK (g : Nibble) (x : Reg) (kk : Byte) : xOf (packXKK g x kk) = x :=
  congrArg BitVec.toFin <| (extractLsb'_append_high _ kk 0 4).trans (extractLsb'_append_low g (regField x))

theorem kkOf_packXKK (g : Nibble) (x : Reg) (kk : Byte) : kkOf (packXKK g x kk) = kk :=
  extractLsb'_append_low (g ++ regField x) kk

theorem groupOf_packNNN (g : Nibble) (nnn : Addr) : groupOf (packNNN g nnn) = g.toFin :=
  congrArg BitVec.toFin <| (extractLsb'_append_high g nnn 0 4).trans BitVec.extractLsb'_eq_self

theorem nnnOf_packNNN (g : Nibble) (nnn : Addr) : nnnOf (packNNN g nnn) = nnn := extractLsb'_append_low g nnn

/-- A word is packed from its own fields in each of the three formats. -/
theorem packXYN_fields (w : Word) : packXYN (w.extractLsb' 12 4) (xOf w) (yOf w) (nOf w) = w := by
  simp only [packXYN, xOf, yOf, nOf, regField_toFin]
  ext j hj
  simp only [BitVec.getElem_append, BitVec.getElem_extractLsb']
  repeat' split
  all_goals (rw [← BitVec.getLsbD_eq_getElem]; congr 1; omega)

theorem packXKK_fields (w : Word) : packXKK (w.extractLsb' 12 4) (xOf w) (kkOf w) = w := by
  simp only [packXKK, xOf, kkOf, regField_toFin]
  ext j hj
  simp only [BitVec.getElem_append, BitVec.getElem_extractLsb']
  repeat' split
  all_goals (rw [← BitVec.getLsbD_eq_getElem]; congr 1; omega)

theorem packNNN_fields (w : Word) : packNNN (w.extractLsb' 12 4) (nnnOf w) = w := by
  simp only [packNNN, nnnOf]
  ext j hj
  simp only [BitVec.getElem_append, BitVec.getElem_extractLsb']
  repeat' split
  all_goals (rw [← BitVec.getLsbD_eq_getElem]; congr 1; omega)

/-- The masks of the opcode map select the fixed fields (R85): a mask is itself a packed word. -/
theorem packXYN_and (g : Nibble) (x y : Reg) (n m : Nibble) :
    packXYN g x y n &&& packXYN 0xF 0 0 m = packXYN g 0 0 (n &&& m) := by
  have h1 := @BitVec.and_append 4 4 g (0xF : Nibble) (regField x) (regField 0)
  have h2 := @BitVec.and_append 8 4 (g ++ regField x) ((0xF : Nibble) ++ regField 0) (regField y) (regField 0)
  have h3 := @BitVec.and_append 12 4 (g ++ regField x ++ regField y) ((0xF : Nibble) ++ regField 0 ++ regField 0) n m
  have z : ∀ r : Reg, regField r &&& regField 0 = regField 0 := fun r => BitVec.and_zero
  have o : g &&& 0xF = g := BitVec.and_allOnes
  rw [h2, h1, z, z, o] at h3
  exact h3

theorem packXKK_and (g : Nibble) (x : Reg) (kk m : Byte) :
    packXKK g x kk &&& packXKK 0xF 0 m = packXKK g 0 (kk &&& m) := by
  have h1 := @BitVec.and_append 4 4 g (0xF : Nibble) (regField x) (regField 0)
  have h2 := @BitVec.and_append 8 8 (g ++ regField x) ((0xF : Nibble) ++ regField 0) kk m
  have z : regField x &&& regField 0 = regField 0 := BitVec.and_zero
  have o : g &&& 0xF = g := BitVec.and_allOnes
  rw [h1, z, o] at h2
  exact h2

theorem packNNN_and (g : Nibble) (nnn m : Addr) : packNNN g nnn &&& packNNN 0xF m = packNNN g (nnn &&& m) := by
  have h1 := @BitVec.and_append 4 12 g (0xF : Nibble) nnn m
  have o : g &&& 0xF = g := BitVec.and_allOnes
  rw [o] at h1
  exact h1

theorem packXYN_and_group (g : Nibble) (x y : Reg) (n : Nibble) : packXYN g x y n &&& 0xF000 = packXYN g 0 0 0 :=
  (packXYN_and g x y n 0).trans (congrArg _ BitVec.and_zero)

theorem packXYN_and_group_n (g : Nibble) (x y : Reg) (n : Nibble) : packXYN g x y n &&& 0xF00F = packXYN g 0 0 n :=
  (packXYN_and g x y n 0xF).trans (congrArg _ BitVec.and_allOnes)

theorem packXKK_and_group (g : Nibble) (x : Reg) (kk : Byte) : packXKK g x kk &&& 0xF000 = packXKK g 0 0 :=
  (packXKK_and g x kk 0).trans (congrArg _ BitVec.and_zero)

theorem packXKK_and_group_kk (g : Nibble) (x : Reg) (kk : Byte) : packXKK g x kk &&& 0xF0FF = packXKK g 0 kk :=
  (packXKK_and g x kk 0xFF).trans (congrArg _ BitVec.and_allOnes)

theorem packNNN_and_group (g : Nibble) (nnn : Addr) : packNNN g nnn &&& 0xF000 = packNNN g 0 :=
  (packNNN_and g nnn 0).trans (congrArg _ BitVec.and_zero)

end Sys2Proof
end

