-- ==== Sys2Proof/Laws/PerInstr.lean ====
section
/-! SUPPORT. Family EncodeInRow: the word an instruction is encoded as lies in the instruction's own row of the opcode
map (30_encoding.md R85). One lemma per constructor. -/

namespace Sys2Proof.Laws.EncodeInRow

/-- The encoding of a well-formed instruction, ANDed with its row's mask, is its row's pattern, under either value of
`STRICT_5_9`. -/
def Statement (i : Instr) : Prop :=
  ∀ strict59, i.wellFormed strict59 = true → (i.row strict59).selects (encode i)

theorem cls : Statement .cls := fun _ _ => by simp [OpcodeRow.selects, Instr.row, encode]
theorem ret : Statement .ret := fun _ _ => by simp [OpcodeRow.selects, Instr.row, encode]
theorem jpNnn (nnn : Addr) : Statement (.jpNnn nnn) := fun _ _ => packNNN_and_group _ nnn
theorem callNnn (nnn : Addr) : Statement (.callNnn nnn) := fun _ _ => packNNN_and_group _ nnn
theorem seVxKk (x : Reg) (kk : Byte) : Statement (.seVxKk x kk) := fun _ _ => packXKK_and_group _ x kk
theorem sneVxKk (x : Reg) (kk : Byte) : Statement (.sneVxKk x kk) := fun _ _ => packXKK_and_group _ x kk
theorem seVxVy (x y : Reg) (n : Nibble) : Statement (.seVxVy x y n) := by
  intro strict59 h
  cases strict59
  · exact packXYN_and_group _ x y n
  · obtain rfl : n = 0 := by simpa [Instr.wellFormed] using h
    exact packXYN_and_group_n _ x y 0
theorem ldVxKk (x : Reg) (kk : Byte) : Statement (.ldVxKk x kk) := fun _ _ => packXKK_and_group _ x kk
theorem addVxKk (x : Reg) (kk : Byte) : Statement (.addVxKk x kk) := fun _ _ => packXKK_and_group _ x kk
theorem ldVxVy (x y : Reg) : Statement (.ldVxVy x y) := fun _ _ => packXYN_and_group_n _ x y _
theorem orVxVy (x y : Reg) : Statement (.orVxVy x y) := fun _ _ => packXYN_and_group_n _ x y _
theorem andVxVy (x y : Reg) : Statement (.andVxVy x y) := fun _ _ => packXYN_and_group_n _ x y _
theorem xorVxVy (x y : Reg) : Statement (.xorVxVy x y) := fun _ _ => packXYN_and_group_n _ x y _
theorem addVxVy (x y : Reg) : Statement (.addVxVy x y) := fun _ _ => packXYN_and_group_n _ x y _
theorem subVxVy (x y : Reg) : Statement (.subVxVy x y) := fun _ _ => packXYN_and_group_n _ x y _
theorem shrVxVy (x y : Reg) : Statement (.shrVxVy x y) := fun _ _ => packXYN_and_group_n _ x y _
theorem subnVxVy (x y : Reg) : Statement (.subnVxVy x y) := fun _ _ => packXYN_and_group_n _ x y _
theorem shlVxVy (x y : Reg) : Statement (.shlVxVy x y) := fun _ _ => packXYN_and_group_n _ x y _
theorem sneVxVy (x y : Reg) (n : Nibble) : Statement (.sneVxVy x y n) := by
  intro strict59 h
  cases strict59
  · exact packXYN_and_group _ x y n
  · obtain rfl : n = 0 := by simpa [Instr.wellFormed] using h
    exact packXYN_and_group_n _ x y 0
theorem ldINnn (nnn : Addr) : Statement (.ldINnn nnn) := fun _ _ => packNNN_and_group _ nnn
theorem jpV0Nnn (nnn : Addr) : Statement (.jpV0Nnn nnn) := fun _ _ => packNNN_and_group _ nnn
theorem rndVxKk (x : Reg) (kk : Byte) : Statement (.rndVxKk x kk) := fun _ _ => packXKK_and_group _ x kk
theorem drwVxVyN (x y : Reg) (n : Nibble) : Statement (.drwVxVyN x y n) := fun _ _ => packXYN_and_group _ x y n
theorem skpVx (x : Reg) : Statement (.skpVx x) := fun _ _ => packXKK_and_group_kk _ x _
theorem sknpVx (x : Reg) : Statement (.sknpVx x) := fun _ _ => packXKK_and_group_kk _ x _
theorem ldVxDT (x : Reg) : Statement (.ldVxDT x) := fun _ _ => packXKK_and_group_kk _ x _
theorem ldVxK (x : Reg) : Statement (.ldVxK x) := fun _ _ => packXKK_and_group_kk _ x _
theorem ldDTVx (x : Reg) : Statement (.ldDTVx x) := fun _ _ => packXKK_and_group_kk _ x _
theorem ldSTVx (x : Reg) : Statement (.ldSTVx x) := fun _ _ => packXKK_and_group_kk _ x _
theorem addIVx (x : Reg) : Statement (.addIVx x) := fun _ _ => packXKK_and_group_kk _ x _
theorem ldFVx (x : Reg) : Statement (.ldFVx x) := fun _ _ => packXKK_and_group_kk _ x _
theorem ldBVx (x : Reg) : Statement (.ldBVx x) := fun _ _ => packXKK_and_group_kk _ x _
theorem ldMIVx (x : Reg) : Statement (.ldMIVx x) := fun _ _ => packXKK_and_group_kk _ x _
theorem ldVxMI (x : Reg) : Statement (.ldVxMI x) := fun _ _ => packXKK_and_group_kk _ x _

end Sys2Proof.Laws.EncodeInRow
end

