-- ==== Sys2Proof/Laws/Transfer.lean ====
section
/-! SUPPORT. What the byte-list write and the register loops of Fx33, Fx55 and Fx65 do, said once. -/

namespace Sys2Proof.Machine

/-- A read after one write: the byte written at the same address mod 4096, else the byte before. -/
theorem State.memRead_memWrite (s : State) (a c : Nat) (b : Byte) :
    (s.memWrite a b).memRead c = if c % 4096 = a % 4096 then b else s.memRead c := by
  unfold State.memRead State.memWrite
  split
  · rename_i h
    simp only [Config.memSize, h]
    exact Memory.read_write_same ..
  · rename_i h
    exact Memory.read_write_ne _ _ _ h

/-- A list write changes memory only. -/
theorem State.memWriteList_eq (bs : List Byte) (s : State) (a : Nat) :
    s.memWriteList a bs = { s with mem := (s.memWriteList a bs).mem } := by
  induction bs generalizing s a with
  | nil => rfl
  | cons b bs ih => exact ih (s.memWrite a b) (a + 1)

/-- A list write leaves every byte outside the written range. -/
theorem State.memRead_memWriteList_outside (bs : List Byte) (s : State) (a c : Nat)
    (h : ∀ k, k < bs.length → c % 4096 ≠ (a + k) % 4096) : (s.memWriteList a bs).memRead c = s.memRead c := by
  induction bs generalizing s a with
  | nil => rfl
  | cons b bs ih =>
    rw [State.memWriteList, ih, State.memRead_memWrite, if_neg]
    · simpa using h 0 (by simp)
    · intro k hk
      rw [show a + 1 + k = a + (k + 1) by omega]
      exact h (k + 1) (by simpa using hk)

/-- A list write of at most 4096 bytes leaves each of its bytes at its address. -/
theorem State.memRead_memWriteList_inside (bs : List Byte) (s : State) (a k : Nat) (b : Byte)
    (hl : bs.length ≤ 4096) (h : bs[k]? = some b) : (s.memWriteList a bs).memRead (a + k) = b := by
  induction bs generalizing s a k with
  | nil => simp at h
  | cons c bs ih =>
    simp at hl
    cases k with
    | zero =>
      simp at h
      subst h
      rw [State.memWriteList, State.memRead_memWriteList_outside, State.memRead_memWrite, if_pos (by simp)]
      intro k hk
      omega
    | succ k =>
      rw [State.memWriteList, show a + (k + 1) = a + 1 + k by omega]
      exact ih _ _ _ (by omega) (by simpa using h)

/-- `stepI` changes I only. -/
theorem State.stepI_eq (s : State) (x : Reg) : s.stepI x = { s with i := (s.stepI x).i } := by
  unfold State.stepI
  split <;> rfl

/-- The register loop of Fx65 changes the registers only. -/
theorem State.loadRegs_eq (f : Reg → Byte) (l : List Reg) (s : State) :
    l.foldl (fun t r => t.writeV r (f r)) s = { s with v := (l.foldl (fun t r => t.writeV r (f r)) s).v } := by
  induction l generalizing s with
  | nil => rfl
  | cons a l ih => exact ih (s.writeV a (f a))

/-- The register loop of Fx65 writes each register of its list once and no other. -/
theorem State.readV_loadRegs (f : Reg → Byte) (l : List Reg) (hl : l.Nodup) (s : State) (r : Reg) :
    (l.foldl (fun t r => t.writeV r (f r)) s).readV r = if r ∈ l then f r else s.readV r := by
  induction l generalizing s with
  | nil => simp
  | cons a l ih =>
    obtain ⟨h1, h2⟩ := List.nodup_cons.1 hl
    rw [List.foldl_cons, ih h2]
    by_cases e : r = a
    · subst e
      simp [h1]
    · simp [e, State.readV_writeV_ne s _ e]

theorem regsUpTo_nodup (x : Reg) : (regsUpTo x).Nodup := (List.nodup_finRange 16).filter _

end Sys2Proof.Machine
end

