-- ==== Sys2Proof/Tests/Slice0.lean ====
section
/-! SUPPORT. Tests of the model against the spec's own encodings and vectors, the smoke test of WellFormed, and for every
statement with hypotheses a witness that they can be met. Words are written out bit by bit from 30_encoding.md R81 and
R85; expected results are the ones 95_test_vectors.md lists. -/

namespace Sys2Proof.Tests

open Sys2Proof Sys2Proof.Machine

/-! ### Helpers -/

/-- The constructed core under R5's defaults and one change of them. -/
def coreWith (change : Config → Config) : State := State.resetWith (change Config.conventional)

/-- One step with a host-supplied byte, the word placed where it fetches. -/
def stepOn (rnd : Byte) (w : Word) (s : State) : Option State :=
  match stepWith rnd (s.placeWord w) with
  | .next t => some t
  | .fault _ => none
  | .refused _ => none

/-- A step ran and its state passes a check. -/
def leads (rnd : Byte) (w : Word) (s : State) (check : State → Bool) : Bool := (stepOn rnd w s).any check

/-- One step whose word is already in memory. -/
def leadsHere (s : State) (check : State → Bool) : Bool :=
  match stepWith 0 s with
  | .next t => check t
  | .fault _ => false
  | .refused _ => false

/-- The first `n` entries of the stack set to 0x202. -/
def State.withCalls (s : State) (n : Nat) : State :=
  { s with stack := List.replicate n 0x202 ++ s.stack.drop n, sp := n }

def State.pressing (s : State) (k : Key) : State := { s with keys := s.keys.set k true }

def State.lit (s : State) (px : Fin 64) (py : Fin 32) : State := { s with fb := Framebuffer.toggle s.fb px py }

/-- The pixels that are on, column by column. -/
def State.litPixels (s : State) : List (Nat × Nat) :=
  (List.finRange 64).flatMap fun px =>
    (List.finRange 32).filterMap fun py => if Framebuffer.pixel s.fb px py then some (px.val, py.val) else none

/-! ### WellFormed: the one check, and a term it refuses (R87) -/

theorem test_wellFormed_refuses_se_n : (Instr.seVxVy 1 2 3).wellFormed true = false := by decide

theorem test_wellFormed_refuses_sne_n : (Instr.sneVxVy 1 2 15).wellFormed true = false := by decide

theorem test_wellFormed_accepts_n_by_default :
    (Instr.seVxVy 1 2 3).wellFormed false = true ∧ (Instr.seVxVy 1 2 0).wellFormed true = true := by decide

/-! ### Decoding: the word of every constructor, written out bit by bit -/

theorem test_decode_cls : decodeWord false 0b0000_0000_1110_0000 = .ok (.cls) := by decide

theorem test_decode_ret : decodeWord false 0b0000_0000_1110_1110 = .ok (.ret) := by decide

theorem test_decode_jp : decodeWord false 0b0001_1010_1011_1100 = .ok (.jpNnn 0xABC) := by decide

theorem test_decode_call : decodeWord false 0b0010_0011_0000_0001 = .ok (.callNnn 0x301) := by decide

theorem test_decode_se_kk : decodeWord false 0b0011_0001_0100_0010 = .ok (.seVxKk 0x1 0x42) := by decide

theorem test_decode_sne_kk : decodeWord false 0b0100_1110_1000_0001 = .ok (.sneVxKk 0xE 0x81) := by decide

theorem test_decode_se_vy : decodeWord false 0b0101_0001_0010_0011 = .ok (.seVxVy 0x1 0x2 0x3) := by decide

theorem test_decode_ld_kk : decodeWord false 0b0110_0011_0011_1100 = .ok (.ldVxKk 0x3 0x3C) := by decide

theorem test_decode_add_kk : decodeWord false 0b0111_0001_0000_0101 = .ok (.addVxKk 0x1 0x05) := by decide

theorem test_decode_ld_vy : decodeWord false 0b1000_0001_0010_0000 = .ok (.ldVxVy 0x1 0x2) := by decide

theorem test_decode_or : decodeWord false 0b1000_1111_0001_0001 = .ok (.orVxVy 0xF 0x1) := by decide

theorem test_decode_and : decodeWord false 0b1000_0001_0010_0010 = .ok (.andVxVy 0x1 0x2) := by decide

theorem test_decode_xor : decodeWord false 0b1000_0001_0001_0011 = .ok (.xorVxVy 0x1 0x1) := by decide

theorem test_decode_add_vy : decodeWord false 0b1000_1111_0001_0100 = .ok (.addVxVy 0xF 0x1) := by decide

theorem test_decode_sub : decodeWord false 0b1000_1010_1011_0101 = .ok (.subVxVy 0xA 0xB) := by decide

theorem test_decode_shr : decodeWord false 0b1000_0001_0010_0110 = .ok (.shrVxVy 0x1 0x2) := by decide

theorem test_decode_subn : decodeWord false 0b1000_0001_0010_0111 = .ok (.subnVxVy 0x1 0x2) := by decide

theorem test_decode_shl : decodeWord false 0b1000_1111_1110_1110 = .ok (.shlVxVy 0xF 0xE) := by decide

theorem test_decode_sne_vy : decodeWord false 0b1001_0001_0010_0000 = .ok (.sneVxVy 0x1 0x2 0x0) := by decide

theorem test_decode_ld_i : decodeWord false 0b1010_0010_0010_1010 = .ok (.ldINnn 0x22A) := by decide

theorem test_decode_jp_v0 : decodeWord false 0b1011_1111_1111_1110 = .ok (.jpV0Nnn 0xFFE) := by decide

theorem test_decode_rnd : decodeWord false 0b1100_0100_0000_1111 = .ok (.rndVxKk 0x4 0x0F) := by decide

theorem test_decode_drw : decodeWord false 0b1101_0001_0010_0101 = .ok (.drwVxVyN 0x1 0x2 0x5) := by decide

theorem test_decode_skp : decodeWord false 0b1110_0001_1001_1110 = .ok (.skpVx 0x1) := by decide

theorem test_decode_sknp : decodeWord false 0b1110_0001_1010_0001 = .ok (.sknpVx 0x1) := by decide

theorem test_decode_ld_vx_dt : decodeWord false 0b1111_0010_0000_0111 = .ok (.ldVxDT 0x2) := by decide

theorem test_decode_ld_vx_k : decodeWord false 0b1111_0011_0000_1010 = .ok (.ldVxK 0x3) := by decide

theorem test_decode_ld_dt : decodeWord false 0b1111_0010_0001_0101 = .ok (.ldDTVx 0x2) := by decide

theorem test_decode_ld_st : decodeWord false 0b1111_0010_0001_1000 = .ok (.ldSTVx 0x2) := by decide

theorem test_decode_add_i : decodeWord false 0b1111_0001_0001_1110 = .ok (.addIVx 0x1) := by decide

theorem test_decode_ld_f : decodeWord false 0b1111_0011_0010_1001 = .ok (.ldFVx 0x3) := by decide

theorem test_decode_ld_b : decodeWord false 0b1111_0000_0011_0011 = .ok (.ldBVx 0x0) := by decide

theorem test_decode_ld_m_vx : decodeWord false 0b1111_0010_0101_0101 = .ok (.ldMIVx 0x2) := by decide

theorem test_decode_ld_vx_m : decodeWord false 0b1111_1111_0110_0101 = .ok (.ldVxMI 0xF) := by decide

/-- R86 to R88 and V40.4 to V40.10: words that are no instruction. -/
theorem test_decode_unknown :
    ([0xFFFF, 0x0123, 0x0000, 0x01E0, 0x8129, 0xE1FF, 0xF1FF] : List Word).all
      (fun w => decodeWord false w = .error (.unknownOpcode w)) = true := by decide

/-- R87: under STRICT_5_9 the word 5123 is none (V43.22), and 5120 is one. -/
theorem test_decode_strict :
    decodeWord true 0x5123 = .error (.unknownOpcode 0x5123) ∧ decodeWord true 0x5120 = .ok (.seVxVy 1 2 0) := by decide

/-- R55: the high byte comes first; a rest is handed back; too few bytes are refused. -/
theorem test_decode_bytes :
    decode false [0xA2, 0x2A, 0xD0] = .ok (.ldINnn 0x22A, [0xD0]) ∧ decode false [0xA2] = .error .truncated := by decide

theorem test_decodeTableWord : decodeTableWord 16 0x8AB5 = some (.subVxVy 0xA 0xB) := by decide

/-! ### The step cycle (V40, V20) -/

/-- V40.1. -/
theorem test_fetch_odd_pc :
    leads 0 0x612A { State.reset with pc := 0x201 } (fun t => t.readV 1 == 0x2A && t.pc == 0x203) = true := by decide

/-- V40.2. -/
theorem test_fetch_wraps :
    leads 0 0x6005 { State.reset with pc := 0xFFF } (fun t => t.readV 0 == 0x05 && t.pc == 0x1001) = true := by decide

/-- V40.3: the bytes at 0x200, PC = 0x1200. -/
theorem test_fetch_reduces_pc :
    leadsHere { (State.reset.memWriteList 0x200 [0x6A, 0x01]) with pc := 0x1200 }
      (fun t => t.readV 0xA == 0x01 && t.pc == 0x1202) = true := by decide

/-- V40.4. -/
theorem test_unknown_opcode :
    leads 0 0xFFFF State.reset
      (fun t => t.fault == some ⟨.unknownOpcode, 0xFFFF, 0x200⟩ && t.pc == 0x202) = true := by decide

/-- V20.5: nothing loaded. -/
theorem test_reset_fetches_zero :
    leadsHere State.reset (fun t => t.fault == some ⟨.unknownOpcode, 0x0000, 0x200⟩ && t.pc == 0x202) = true := by decide

/-- V40.11. -/
theorem test_faulted_core_refuses :
    (stepOn 0 0x6001 State.reset).isSome = true ∧
    leadsHere { State.reset with fault := some ⟨.unknownOpcode, 0xFFFF, 0x200⟩ } (fun _ => true) = false := by decide

/-- V20.7 and V20.8. -/
theorem test_glyphs_at_reset :
    (List.range 5).map (fun k => State.reset.memRead (0x050 + k)) = [0xF0, 0x90, 0x90, 0x90, 0xF0] ∧
    (List.range 5).map (fun k => State.reset.memRead (0x09B + k)) = [0xF0, 0x80, 0xF0, 0x80, 0x80] := by decide

/-- S5. -/
theorem test_memory_wraps :
    (State.reset.memWrite 0x1FFF 0x77).memRead 0xFFF = 0x77 ∧ State.reset.memRead 0x2050 = 0xF0 := by decide

/-- V20.4 and V20.6: `load` of 60 05, one step, and a second `load` refused. -/
theorem test_load_once :
    (match load [0x60, 0x05] State.reset with
     | .next t => t.memRead 0x200 == 0x60 && t.memRead 0x201 == 0x05 && leadsHere t (fun u => u.readV 0 == 0x05) &&
        (match load [0x60] t with | .refused r => r == .loadNotAdmitted | .next _ => false | .fault _ => false)
     | .fault _ => false
     | .refused _ => false) = true := by decide

/-- The host's placing of a word: the very next step runs it. -/
theorem test_withFetchWord :
    (match step (State.reset.withFetchWord 16 0x633C) with
     | .next t => t.readV 3 == 0x3C && t.pc == 0x202
     | .fault _ => false
     | .refused _ => false) = true := by decide

/-! ### Register loads and RND (V41) -/

/-- V41.1. -/
theorem test_ld_kk :
    leads 0 0x633C State.reset (fun t => t.readV 3 == 0x3C && t.readV vf == 0 && t.pc == 0x202) = true := by decide

/-- V41.4. -/
theorem test_add_kk_no_carry :
    leads 0 0x7101 ((State.reset.writeV 1 0xFF).writeV vf 0x55) (fun t => t.readV 1 == 0 && t.readV vf == 0x55) = true := by decide

/-- V41.5. -/
theorem test_add_kk_vf :
    leads 0 0x7F01 (State.reset.writeV vf 0xFF) (fun t => t.readV vf == 0) = true := by decide

/-- V41.6. -/
theorem test_ld_vy :
    leads 0 0x8120 ((State.reset.writeV 1 7).writeV 2 9) (fun t => t.readV 1 == 9 && t.readV 2 == 9) = true := by decide

/-- V41.9. -/
theorem test_rnd_mask :
    leads 0xAB 0xC40F State.reset (fun t => t.readV 4 == 0x0B) = true := by decide

/-- V41.11. -/
theorem test_rnd_zero :
    leads 0xFF 0xC400 (State.reset.writeV 4 0x77) (fun t => t.readV 4 == 0) = true := by decide

/-! ### ALU (V42) -/

/-- V42.1. -/
theorem test_or :
    leads 0 0x8121 (((State.reset.writeV 1 0xF0).writeV 2 0x0F).writeV vf 0x77) (fun t => t.readV 1 == 0xFF && t.readV vf == 0x77) = true := by decide

/-- V42.2. -/
theorem test_or_resets :
    leads 0 0x8121 ((((coreWith fun c => { c with logicResetsVf := true }).writeV 1 0xF0).writeV 2 0x0F).writeV vf 0x77)
      (fun t => t.readV 1 == 0xFF && t.readV vf == 0) = true := by decide

/-- V42.4. -/
theorem test_and :
    leads 0 0x8122 ((State.reset.writeV 1 0xF0).writeV 2 0x3C) (fun t => t.readV 1 == 0x30) = true := by decide

/-- V42.6. -/
theorem test_xor :
    leads 0 0x8123 ((State.reset.writeV 1 0xFF).writeV 2 0x0F) (fun t => t.readV 1 == 0xF0) = true := by decide

/-- V42.10. -/
theorem test_add_carry :
    leads 0 0x8124 ((State.reset.writeV 1 0xFF).writeV 2 1) (fun t => t.readV 1 == 0 && t.readV vf == 1) = true := by decide

/-- V42.14. -/
theorem test_add_vf_flag_wins :
    leads 0 0x8F14 ((State.reset.writeV vf 0xFF).writeV 1 1) (fun t => t.readV vf == 1) = true := by decide

/-- V42.16, the source's own example. -/
theorem test_sub_borrow :
    leads 0 0x8125 ((State.reset.writeV 1 3).writeV 2 5) (fun t => t.readV 1 == 0xFE && t.readV vf == 0) = true := by decide

/-- V42.18. -/
theorem test_sub_equal :
    leads 0 0x8125 ((State.reset.writeV 1 5).writeV 2 5) (fun t => t.readV 1 == 0 && t.readV vf == 1) = true := by decide

/-- V42.24. -/
theorem test_shr_vx :
    leads 0 0x8126 ((State.reset.writeV 1 5).writeV 2 0xFF) (fun t => t.readV 1 == 2 && t.readV vf == 1) = true := by decide

/-- V42.25. -/
theorem test_shr_vy :
    leads 0 0x8126 (((coreWith fun c => { c with shiftUsesVy := true }).writeV 1 5).writeV 2 0xFF)
      (fun t => t.readV 1 == 0x7F && t.readV vf == 1) = true := by decide

/-- V42.27. -/
theorem test_subn :
    leads 0 0x8127 ((State.reset.writeV 1 3).writeV 2 5) (fun t => t.readV 1 == 2 && t.readV vf == 1) = true := by decide

/-- V42.28. -/
theorem test_subn_borrow :
    leads 0 0x8127 ((State.reset.writeV 1 5).writeV 2 3) (fun t => t.readV 1 == 0xFE && t.readV vf == 0) = true := by decide

/-- V42.32. -/
theorem test_shl_vx :
    leads 0 0x810E ((State.reset.writeV 1 0x40).writeV vf 1) (fun t => t.readV 1 == 0x80 && t.readV vf == 0) = true := by decide

/-- V42.33. -/
theorem test_shl_vy :
    leads 0 0x812E (((coreWith fun c => { c with shiftUsesVy := true }).writeV 1 1).writeV 2 0x80)
      (fun t => t.readV 1 == 0 && t.readV vf == 1) = true := by decide

/-! ### Control flow (V43) -/

/-- V43.3, an odd target. -/
theorem test_jp :
    leads 0 0x1201 State.reset (fun t => t.pc == 0x201) = true := by decide

/-- V43.4. -/
theorem test_call :
    leads 0 0x2300 State.reset (fun t => t.sp == 1 && t.stack[0]? == some 0x202 && t.pc == 0x300) = true := by decide

/-- V43.7. -/
theorem test_call_full :
    leads 0 0x2300 (State.withCalls (coreWith fun c => { c with stackDepth := 12 }) 12)
      (fun t => t.fault == some ⟨.stackOverflow, 0x2300, 0x200⟩ && t.sp == 12 && t.pc == 0x202) = true := by decide

/-- V43.9. -/
theorem test_ret :
    leads 0 0x00EE { State.withCalls State.reset 1 with pc := 0x300 } (fun t => t.sp == 0 && t.pc == 0x202) = true := by decide

/-- V43.10. -/
theorem test_ret_empty :
    leads 0 0x00EE State.reset (fun t => t.fault == some ⟨.stackUnderflow, 0x00EE, 0x200⟩ && t.pc == 0x202) = true := by decide

/-- V43.12. -/
theorem test_jp_v0 :
    leads 0 0xBFFF (State.reset.writeV 0 0xFF) (fun t => t.pc == 0x10FE) = true := by decide

/-- V43.14. -/
theorem test_jp_vx :
    leads 0 0xB200 (((coreWith fun c => { c with bnnnUsesVx := true }).writeV 0 8).writeV 2 4)
      (fun t => t.pc == 0x204) = true := by decide

/-- V43.15 and V43.16. -/
theorem test_se_kk :
    leads 0 0x3142 (State.reset.writeV 1 0x42) (fun t => t.pc == 0x204) = true ∧
    leads 0 0x3142 (State.reset.writeV 1 0x41) (fun t => t.pc == 0x202) = true := by decide

/-- V43.17 and V43.18. -/
theorem test_sne_kk :
    leads 0 0x4142 (State.reset.writeV 1 0x42) (fun t => t.pc == 0x202) = true ∧
    leads 0 0x4142 (State.reset.writeV 1 0x41) (fun t => t.pc == 0x204) = true := by decide

/-- V43.20 and V43.21. -/
theorem test_se_vy :
    leads 0 0x5120 ((State.reset.writeV 1 7).writeV 2 8) (fun t => t.pc == 0x202) = true ∧
    leads 0 0x5123 ((State.reset.writeV 1 7).writeV 2 7) (fun t => t.pc == 0x204) = true := by decide

/-- V43.23 and V43.24. -/
theorem test_sne_vy :
    leads 0 0x9120 ((State.reset.writeV 1 7).writeV 2 8) (fun t => t.pc == 0x204) = true ∧
    leads 0 0x9120 ((State.reset.writeV 1 7).writeV 2 7) (fun t => t.pc == 0x202) = true := by decide

/-- V43.25 and V43.26. -/
theorem test_skp :
    leads 0 0xE19E (State.pressing (State.reset.writeV 1 5) 5) (fun t => t.pc == 0x204) = true ∧
    leads 0 0xE19E (State.reset.writeV 1 5) (fun t => t.pc == 0x202) = true := by decide

/-- V43.27. -/
theorem test_skp_bad_key :
    leads 0 0xE19E (State.pressing (State.reset.writeV 1 0x10) 0)
      (fun t => t.fault == some ⟨.invalidKey, 0xE19E, 0x200⟩ && t.pc == 0x202) = true := by decide

/-- V43.28 and V43.29. -/
theorem test_sknp :
    leads 0 0xE1A1 (State.pressing (State.reset.writeV 1 5) 5) (fun t => t.pc == 0x202) = true ∧
    leads 0 0xE1A1 (State.pressing (State.reset.writeV 1 5) 4) (fun t => t.pc == 0x204) = true := by decide

/-- V43.30. -/
theorem test_sknp_bad_key :
    leads 0 0xE1A1 (State.reset.writeV 1 0xFF) (fun t => t.fault == some ⟨.invalidKey, 0xE1A1, 0x200⟩) = true := by decide

/-- V43.31. -/
theorem test_skip_past_top :
    leads 0 0x3000 { State.reset with pc := 0xFFE } (fun t => t.pc == 0x1002) = true := by decide

/-! ### Display (V44) -/

/-- V44.1 and V44.2. -/
theorem test_cls :
    leads 0 0x00E0 (State.lit (State.lit (State.reset.writeV vf 1) 0 0) 63 31)
      (fun t => t.fb == Framebuffer.clear && t.readV vf == 1) = true := by decide

/-- V44.7. -/
theorem test_drw_wraps_right :
    leads 0 0xD011 { ((State.reset.writeV 0 60).writeV 1 31).memWrite 0x300 0x81 with i := 0x300 }
      (fun t => State.litPixels t == [(3, 31), (60, 31)] && t.readV vf == 0) = true := by decide

/-- V44.5. -/
theorem test_drw_collides :
    leads 0 0xD011 (State.lit { State.reset with i := 0x050 } 1 0)
      (fun t => State.litPixels t == [(0, 0), (2, 0), (3, 0)] && t.readV vf == 1) = true := by decide

/-- V44.15. -/
theorem test_ld_f :
    leads 0 0xF329 (State.reset.writeV 3 0x1A) (fun t => t.i == 0x082) = true := by decide

/-- V44.17. -/
theorem test_ld_f_last :
    leads 0 0xF029 (State.reset.writeV 0 0x0F) (fun t => t.i == 0x09B) = true := by decide

/-! ### Timers and keys (V45) -/

/-- V45.1. -/
theorem test_ld_vx_dt :
    leads 0 0xF207 { State.reset with dt := 0x3C } (fun t => t.readV 2 == 0x3C) = true := by decide

/-- V45.3. -/
theorem test_ld_dt_vx :
    leads 0 0xF215 (State.reset.writeV 2 0x3C) (fun t => t.dt == 0x3C && t.st == 0) = true := by decide

/-- V45.5. -/
theorem test_ld_st_vx :
    leads 0 0xF218 (State.reset.writeV 2 5) (fun t => t.st == 5 && t.dt == 0) = true := by decide

/-- V45.8. -/
theorem test_ld_vx_k :
    leads 0 0xF30A (State.pressing State.reset 5)
      (fun t => t.wait == some 3 && t.prevKeys == t.keys && t.pc == 0x202) = true := by decide

/-- V45.13. -/
theorem test_wait_smallest :
    leadsHere { State.pressing (State.pressing State.reset 9) 2 with wait := some 3, pc := 0x202 }
      (fun t => t.readV 3 == 2 && t.wait == none && t.prevKeys == t.keys && t.pc == 0x202) = true := by decide

/-- V45.10. -/
theorem test_wait_held_key :
    leadsHere { State.pressing State.reset 5 with
        wait := some 3, prevKeys := (State.pressing State.reset 5).keys, pc := 0x202 }
      (fun t => t.wait == some 3 && t.pc == 0x202) = true := by decide

/-- V45.16: one tick; DT stays at 0. -/
theorem test_tick :
    (match tick { State.reset with st := 7 } with
     | .next t => t.dt == 0 && t.st == 6
     | .fault _ => false
     | .refused _ => false) = true := by decide

/-- R193, R205, R207: the queries. -/
theorem test_queries :
    isOn 1 0 (State.lit State.reset 1 0) = .ok true ∧ isOn 64 0 State.reset = .error .pixelOutOfRange ∧
    isPressed 5 (State.pressing State.reset 5) = .ok true ∧ isPressed 16 State.reset = .error .keyOutOfRange ∧
    toneOn { State.reset with st := 3 } = true := by decide

/-! ### Index register and memory transfers (V46) -/

/-- V46.1. -/
theorem test_ld_i :
    leads 0 0xA22A State.reset (fun t => t.i == 0x22A) = true := by decide

/-- V46.4. -/
theorem test_add_i_past_12_bits :
    leads 0 0xF11E { State.reset.writeV 1 1 with i := 0xFFF } (fun t => t.i == 0x1000 && t.readV vf == 0) = true := by decide

/-- V46.5. -/
theorem test_add_i_wraps :
    leads 0 0xF11E { State.reset.writeV 1 1 with i := 0xFFFF } (fun t => t.i == 0) = true := by decide

/-- V46.6. -/
theorem test_ld_b :
    leads 0 0xF033 { State.reset.writeV 0 156 with i := 0x300 }
      (fun t => [0x300, 0x301, 0x302].map t.memRead == [1, 5, 6]) = true := by decide

/-- V46.9. -/
theorem test_ld_b_wraps :
    leads 0 0xF033 { State.reset.writeV 0 42 with i := 0xFFE }
      (fun t => [0xFFE, 0xFFF, 0x000].map t.memRead == [0, 4, 2]) = true := by decide

/-- V46.10. -/
theorem test_ld_m_vx :
    leads 0 0xF255 { (((State.reset).writeV 0 0x11).writeV 1 0x22).writeV 2 0x33 with i := 0x300 }
      (fun t => [0x300, 0x301, 0x302, 0x303].map t.memRead == [0x11, 0x22, 0x33, 0] && t.i == 0x300) = true := by decide

/-- V46.11. -/
theorem test_ld_m_vx_increments :
    leads 0 0xF255 { (((coreWith fun c => { c with loadStoreIncrementsI := true }).writeV 0 0x11).writeV 1 0x22).writeV 2 0x33 with i := 0x300 }
      (fun t => t.memRead 0x302 == 0x33 && t.i == 0x303) = true := by decide

/-- V46.14. -/
theorem test_ld_vx_m :
    leads 0 0xF265 { State.reset.memWriteList 0x300 [1, 5, 6] with i := 0x300 }
      (fun t => t.readV 0 == 1 && t.readV 1 == 5 && t.readV 2 == 6 && t.readV 3 == 0 && t.i == 0x300) = true := by decide

/-- V46.17. -/
theorem test_ld_vx_m_all :
    leads 0 0xFF65 { State.reset.memWriteList 0xFF8 ((List.range 16).map fun k => BitVec.ofNat 8 (k + 1)) with i := 0xFF8 }
      (fun t => t.readV 0 == 1 && t.readV 7 == 8 && t.readV 8 == 9 && t.readV 15 == 16) = true := by decide

/-! ### Witnesses: for every statement with hypotheses, data that meet them, at the ends of their ranges -/

/-- A core that is `n` calls deep meets the invariant when `n` is at most 16. -/
theorem deep_inv (n : Nat) (h : n ≤ 16) : (State.withCalls State.reset n).Inv := by
  refine ⟨(by decide : Config.conventional.Legal), State.reset_wf, ?_, h, ?_, fun e => absurd rfl e⟩
  · simp [State.withCalls, State.reset, State.resetWith, Config.conventional]
    omega
  · intro r e
    cases e

theorem witness_EncodedInstructionsDecodeBack :
    (Instr.sneVxVy 0 0 15).wellFormed false = true ∧ (Instr.sneVxVy 0 0 0).wellFormed true = true := by decide

theorem witness_DecodedWordsEncodeBack :
    decodeWord true 0x5120 = .ok (.seVxVy 1 2 0) ∧ decodeWord false 0x512F = .ok (.seVxVy 1 2 15) := by decide

theorem witness_DispatchAgreesWithTheOpcodeMap :
    decodeWord false 0x00E0 = .ok .cls ∧ decodeWord true 0x9001 = .error (.unknownOpcode 0x9001) ∧
    (Instr.row false .cls).selects 0x00E0 ∧ Instr.row false .cls ∈ opcodeRows false := by decide

/-- Both sides of each group's boundary: a word that is none and one that is an instruction. -/
theorem witness_UnknownWordsByGroup :
    ([0x00E1, 0x0000, 0x8008, 0x800F, 0xE09F, 0xF066] : List Word).all
      (fun w => decodeWord false w = .error (.unknownOpcode w)) = true ∧
    ([0x5001, 0x900F] : List Word).all (fun w => decodeWord true w = .error (.unknownOpcode w)) = true ∧
    ([0x00E0, 0x00EE, 0x8007, 0x800E, 0xE09E, 0xE0A1, 0xF065, 0x5001] : List Word).all
      (fun w => decodeWord false w ≠ .error (.unknownOpcode w)) = true := by decide

theorem witness_StepRunsTheDecodedInstruction :
    let s := State.reset.placeWord 0x633C
    s.fault = none ∧ s.wait = none ∧
    decode s.cfg.strict59 [s.memRead s.pc.toNat, s.memRead (s.pc.toNat + 1)] = .ok (.ldVxKk 3 0x3C, []) := by decide

/-- One state per clause: a decodable word, an unknown one, and an instruction that faults. -/
theorem witness_StepFetchesThenAdvances :
    (State.reset.fault = none ∧ State.reset.wait = none) ∧
    decodeWord false (State.reset.placeWord 0x00E0).fetchWord = .ok .cls ∧
    decodeWord false State.reset.fetchWord = .error (.unknownOpcode 0x0000) ∧
    ∃ t, stepWith 0 (State.reset.placeWord 0x00EE) = .next t ∧ t.fault ≠ none :=
  ⟨⟨rfl, rfl⟩, by decide, by decide, _, rfl, by decide⟩

/-- A core that a fault has stopped, with a key down. -/
def stopped : State := { State.pressing State.reset 5 with fault := some ⟨.unknownOpcode, 0xFFFF, 0x200⟩ }

theorem witness_FaultedCoreTakesNoStep : stopped.fault = some ⟨.unknownOpcode, 0xFFFF, 0x200⟩ := rfl

/-- V45.10: key 5 is held; no key is new. -/
theorem witness_WaitGoesOnWithoutNewKey :
    let s := { State.pressing State.reset 5 with wait := some 3, prevKeys := (State.pressing State.reset 5).keys }
    s.fault = none ∧ s.wait = some 3 ∧ ∀ k, ¬ (s.pressed k = true ∧ s.prevKeys[k] = false) := by decide

/-- The largest key alone, and two keys of which the smaller wins (V45.13). -/
theorem witness_SmallestNewKeyEndsTheWait :
    let s := { State.pressing State.reset 15 with wait := some 3 }
    let u := { State.pressing (State.pressing State.reset 9) 0 with wait := some vf }
    (s.fault = none ∧ s.wait = some 3 ∧ (s.pressed 15 = true ∧ s.prevKeys[(15 : Key)] = false) ∧
      ∀ j : Key, j < 15 → ¬ (s.pressed j = true ∧ s.prevKeys[j] = false)) ∧
    (u.fault = none ∧ u.wait = some vf ∧ (u.pressed 0 = true ∧ u.prevKeys[(0 : Key)] = false) ∧
      ∀ j : Key, j < 0 → ¬ (u.pressed j = true ∧ u.prevKeys[j] = false)) := by decide

theorem witness_UnknownWordIsRecorded :
    let s := State.reset.placeWord 0xFFFF
    s.fault = none ∧ s.wait = none ∧ decodeWord s.cfg.strict59 s.fetchWord = .error (.unknownOpcode 0xFFFF) := by decide

/-- Each of the four kinds a step can raise. -/
theorem witness_FaultsArePrecise :
    State.reset.fault = none ∧
    (∃ t, stepWith 0 (State.reset.placeWord 0xFFFF) = .next t ∧ t.fault ≠ none) ∧
    (∃ t, stepWith 0 ((State.withCalls State.reset 16).placeWord 0x2300) = .next t ∧ t.fault ≠ none) ∧
    (∃ t, stepWith 0 (State.reset.placeWord 0x00EE) = .next t ∧ t.fault ≠ none) ∧
    (∃ t, stepWith 0 ((State.reset.writeV 1 16).placeWord 0xE19E) = .next t ∧ t.fault ≠ none) :=
  ⟨rfl, ⟨_, rfl, by decide⟩, ⟨_, rfl, by decide⟩, ⟨_, rfl, by decide⟩, ⟨_, rfl, by decide⟩⟩

theorem witness_EveryStepKeepsTheInvariant :
    (State.withCalls State.reset 16).Inv ∧ ∃ t, step (State.withCalls State.reset 16) = .next t :=
  ⟨deep_inv 16 (by decide), _, rfl⟩

theorem witness_InvariantHoldsAtReset :
    Config.Legal { Config.conventional with stackDepth := 12 } ∧
    Config.Legal { Config.conventional with stackDepth := 16 } := by decide

theorem witness_EveryScheduleKeepsTheInvariant :
    (State.withCalls State.reset 1).Inv ∧
    ∃ t, transactAll [.tick, .setKey 15 true, .step 0xAB] (State.withCalls State.reset 1) = .next t :=
  ⟨deep_inv 1 (by decide), _, rfl⟩

/-- A memory with one byte listed. -/
theorem witness_CanonicalMemoriesAreDeterminedByTheirBytes :
    Memory.wf (fun _ => 0) [(0x300, 1)] ∧ Memory.wf (fun _ => 0) [(0x000, 5), (0xFFF, 1)] := by decide

theorem witness_NothingClearsAFault :
    stopped.fault ≠ none ∧ (∃ t, exec .cls stopped = .next t) ∧
    stopped.fault = some ⟨.unknownOpcode, 0xFFFF, 0x200⟩ ∧ (∃ t, transact (.setKey 15 true) stopped = .next t) :=
  ⟨by decide, ⟨_, rfl⟩, rfl, _, rfl⟩

/-- One instruction that meets every clause's premise, Fx65 under the default for the clause on I, and each row of the
three tables: a register outside a full and a partial row of R21, an instruction outside R25 and outside R117. -/
theorem witness_PiecesAreWrittenOnlyByTheirInstructions :
    (∃ t, exec (.addVxVy 1 2) State.reset = .next t) ∧ (∃ t, exec (.ldVxMI 14) State.reset = .next t) ∧
    State.reset.cfg.loadStoreIncrementsI = false ∧
    (2 ∉ (Instr.addVxVy 1 2).writesV false ∧ vf ∈ (Instr.addVxVy 1 2).writesV false) ∧
    (15 ∉ (Instr.ldVxMI 14).writesV false ∧ 14 ∈ (Instr.ldVxMI 14).writesV false) ∧
    (vf ∉ (Instr.orVxVy 1 2).writesV false ∧ vf ∈ (Instr.orVxVy 1 2).writesV true) ∧
    (Instr.addVxVy 1 2).writesPC = false ∧ (Instr.addVxVy 1 2).canFault = false :=
  ⟨⟨_, rfl⟩, ⟨_, rfl⟩, rfl, by decide, by decide, by decide, rfl, rfl⟩

/-- One state per way to skip, at both ends of the key codes. -/
theorem witness_SkipPassesOverOneWord :
    let w := fun (word : Word) (s : State) (i : Instr) =>
      (s.placeWord word).fault = none ∧ (s.placeWord word).wait = none ∧
      decodeWord s.cfg.strict59 (s.placeWord word).fetchWord = .ok i
    (w 0x3100 State.reset (.seVxKk 1 0) ∧ State.reset.readV 1 = 0) ∧
    (w 0x41FF State.reset (.sneVxKk 1 0xFF) ∧ State.reset.readV 1 ≠ 0xFF) ∧
    (w 0x512F State.reset (.seVxVy 1 2 15) ∧ State.reset.readV 1 = State.reset.readV 2) ∧
    (w 0x9120 (State.reset.writeV 1 7) (.sneVxVy 1 2 0) ∧
      (State.reset.writeV 1 7).readV 1 ≠ (State.reset.writeV 1 7).readV 2) ∧
    (w 0xE19E (State.pressing (State.reset.writeV 1 15) 15) (.skpVx 1) ∧
      ((State.pressing (State.reset.writeV 1 15) 15).readV 1).toNat = (15 : Key).val ∧
      (State.pressing (State.reset.writeV 1 15) 15).pressed 15 = true) ∧
    (w 0xE1A1 State.reset (.sknpVx 1) ∧ (State.reset.readV 1).toNat = (0 : Key).val ∧
      State.reset.pressed 0 = false) := by decide

theorem witness_OnlyRndReadsTheRandomByte :
    (∀ x kk, Instr.ldVxDT 3 ≠ .rndVxKk x kk) ∧ ∃ t, exec (.ldVxDT 3) State.reset = .next t :=
  ⟨by simp, _, rfl⟩

theorem witness_NoInstructionReadsTheSoundTimer :
    (∃ t, exec (.ldSTVx 3) State.reset = .next t) ∧ ∃ t, exec (.ldVxDT 3) State.reset = .next t :=
  ⟨⟨_, rfl⟩, _, rfl⟩

/-- The stale entry differs and the held one agrees. -/
theorem witness_StaleStackEntriesAreUnobservable :
    let s := State.withCalls State.reset 1
    let entries := 0x202 :: List.replicate 15 (0xBEEF : Word)
    entries.length = s.stack.length ∧ (∀ j, j < s.sp → entries[j]? = s.stack[j]?) ∧ ∃ t, exec .ret s = .next t :=
  ⟨by decide, by decide, _, rfl⟩

theorem witness_LogicOperationsWriteVxAndMayClearVf :
    State.reset.cfg.logicResetsVf = false ∧
    (coreWith fun c => { c with logicResetsVf := true }).cfg.logicResetsVf = true ∧ (14 : Reg) ≠ vf := by decide

theorem witness_AddSetsCarry : (14 : Reg) ≠ vf := by decide

theorem witness_SubSetsNotBorrow : (0 : Reg) ≠ vf := by decide

theorem witness_SubnSetsNotBorrow : (14 : Reg) ≠ vf := by decide

theorem witness_ShiftsSetTheBitShiftedOut :
    (14 : Reg) ≠ vf ∧ State.reset.cfg.shiftUsesVy = false ∧
    (coreWith fun c => { c with shiftUsesVy := true }).cfg.shiftUsesVy = true := by decide

/-- The empty stack and the last free entry. -/
theorem witness_CallPushesTheReturnAddress :
    ((State.withCalls State.reset 0).Inv ∧ (State.withCalls State.reset 0).sp < State.reset.cfg.stackDepth) ∧
    ((State.withCalls State.reset 15).Inv ∧ (State.withCalls State.reset 15).sp < State.reset.cfg.stackDepth) :=
  ⟨⟨deep_inv 0 (by decide), by decide⟩, deep_inv 15 (by decide), by decide⟩

/-- One address held, and a full stack. -/
theorem witness_RetPopsIntoPc :
    (let s := State.withCalls State.reset 1; s.sp ≠ 0 ∧ s.stack[s.sp - 1]? = some 0x202) ∧
    (let s := State.withCalls State.reset 16; s.sp ≠ 0 ∧ s.stack[s.sp - 1]? = some 0x202) := by decide

theorem witness_StackFaultsAreRecorded :
    (State.withCalls State.reset 16).sp = (State.withCalls State.reset 16).cfg.stackDepth ∧ State.reset.sp = 0 := by
  decide

/-- No call, and as many calls as the stack has entries; SP = 0 for the last clause. -/
theorem witness_CallsAndReturnsBalance :
    let s := State.withCalls State.reset 0
    s.Inv ∧ s.fault = none ∧ s.sp + ([] : List Addr).length ≤ s.cfg.stackDepth ∧
    s.sp + (List.replicate 16 (0x300 : Addr)).length ≤ s.cfg.stackDepth ∧ s.sp = 0 :=
  ⟨deep_inv 0 (by decide), rfl, by decide, by decide, rfl⟩

theorem witness_JumpV0AddsTheBaseRegister :
    State.reset.cfg.bnnnUsesVx = false ∧ (coreWith fun c => { c with bnnnUsesVx := true }).cfg.bnnnUsesVx = true ∧
    (15 : Reg).val = (0xFFF : Addr).toNat / 256 ∧ (0 : Reg).val = (0x0FF : Addr).toNat / 256 := by decide

/-- The first and the last key code. -/
theorem witness_KeySkipsFollowTheKey :
    (State.reset.readV 1).toNat = (0 : Key).val ∧ ((State.reset.writeV 1 15).readV 1).toNat = (15 : Key).val := by
  decide

/-- The first code above the keys, and the last byte. -/
theorem witness_KeySkipsRefuseCodesAboveFifteen :
    15 < ((State.reset.writeV 1 16).readV 1).toNat ∧ 15 < ((State.reset.writeV 1 0xFF).readV 1).toNat := by decide

/-- A state whose sprite (glyph 0 at I) covers (0, 0) and not (1, 1), with a collision and without one. -/
theorem witness_DrwInvertsTheSpritesPixels :
    let s := { State.reset with i := 0x050 }
    s.SpriteCovers 0 0 5 0 0 ∧ ¬ s.SpriteCovers 0 0 0 1 1 ∧ Framebuffer.pixel (State.lit s 0 0).fb 0 0 = true ∧
    Framebuffer.pixel s.fb 0 0 = false := by
  refine ⟨⟨0, by decide, 0, by decide, by decide, rfl, rfl⟩, ?_, by decide, by decide⟩
  rintro ⟨r, h, _⟩
  omega

theorem witness_DrawingTwiceRestoresTheScreen :
    ∃ t, exec (.drwVxVyN 0 1 5) { State.reset with i := 0x050 } = .next t ∧
      (t.readV 0).toNat % 64 = (State.reset.readV 0).toNat % 64 ∧
      (t.readV 1).toNat % 32 = (State.reset.readV 1).toNat % 32 :=
  ⟨_, rfl, by decide, by decide⟩

theorem witness_StoreRegistersWritesVZeroToVx : (0 : Reg) ≤ 0 ∧ (15 : Reg) ≤ 15 := by decide

theorem witness_LoadRegistersReadsVZeroToVx : (15 : Reg) ≤ 15 ∧ (14 : Reg) < 15 := by decide

theorem witness_TickDecrementsBothTimers : State.reset.fault = none := rfl

theorem witness_SetKeyWritesOneKey : 15 < 16 ∧ 16 ≤ 16 := by decide

/-- The largest ROM, and one byte more (V20.1, V20.2). -/
theorem witness_LoadCopiesTheRom :
    (List.replicate 3584 (0x11 : Byte)).length ≤ 3584 ∧ 3584 < (List.replicate 3585 (0x11 : Byte)).length := by
  simp only [List.length_replicate]
  decide

/-- Each transaction that closes `load`, each followed by a schedule that a key change ends. -/
theorem witness_LoadIsAdmittedOnce :
    (∀ k p, Transaction.tick ≠ .setKey k p) ∧
    (∃ t u, transact .tick State.reset = .next t ∧ transactAll [.setKey 15 true] t = .next u) ∧
    (∃ t u, transact (.step 0) State.reset = .next t ∧ transactAll [.setKey 0 false] t = .next u) ∧
    (∃ t u, transact (.load [0x60, 0x05]) State.reset = .next t ∧
      transactAll [.setKey 5 true, .step 0, .tick, .setKey 5 false] t = .next u) :=
  ⟨by simp, ⟨_, _, rfl, rfl⟩, ⟨_, _, rfl, rfl⟩, _, _, rfl, rfl⟩

theorem witness_EndOfProgramIsAFixedPoint :
    (State.reset.placeWord 0x1200).AtEnd 0x200 := ⟨rfl, rfl, by decide, by decide⟩

end Sys2Proof.Tests
end

section
/-! Proofs about memory addressing (20_memory.md): the big-endian word (R55) and the reduction mod 4096 (R51). -/

namespace Sys2Proof.Machine

/-- The word of two bytes, as the shift and OR of R55. -/
theorem wordOfBytes_eq_shiftLeft_or (hi lo : Byte) :
    wordOfBytes hi lo = (hi.setWidth 16 <<< 8) ||| lo.setWidth 16 := by
  rw [wordOfBytes, BitVec.append_def, BitVec.shiftLeftZeroExtend_eq, BitVec.setWidth'_eq]

/-- Addresses with the same remainder mod 4096 read the same byte. -/
theorem State.memRead_eq_of_mod_eq (s : State) {a c : Nat} (h : a % 4096 = c % 4096) :
    s.memRead a = s.memRead c := by
  rw [State.memRead, State.memRead, h]

/-- Writes at addresses with the same remainder mod 4096 give the same state. -/
theorem State.memWrite_eq_of_mod_eq (s : State) {a c : Nat} (h : a % 4096 = c % 4096) (b : Byte) :
    s.memWrite a b = s.memWrite c b := by
  rw [State.memWrite, State.memWrite, h]

/-- Settles O6: the fetched word is the word of the two bytes at PC, which is their shift and OR. -/
theorem fetchIsBigEndian : Obligations.FetchIsBigEndian :=
  fun _ => wordOfBytes_eq_shiftLeft_or _ _

/-- Settles O18: reads and writes see an address only through its remainder mod 4096, which neither a reduction nor
4096 more changes. -/
theorem everyAddressIsReducedMod4096 : Obligations.EveryAddressIsReducedMod4096 := by
  intro s a
  have reduced : a % 4096 = a % 4096 % 4096 := (Nat.mod_mod a 4096).symm
  exact ⟨s.memRead_eq_of_mod_eq reduced, s.memWrite_eq_of_mod_eq reduced,
    s.memRead_eq_of_mod_eq (Nat.add_mod_right a 4096)⟩

end Sys2Proof.Machine
end

section
/-! Proofs about the register operations (41_register_ops.md): the frame of a register write, and LD Vx, kk (R140). -/

namespace Sys2Proof.Machine

/-- A register write touches no register but its target. -/
theorem State.regsSameBut_writeV (s : State) (x : Reg) (b : Byte) : RegsSameBut [x] s (s.writeV x b) :=
  fun _ hr => s.readV_writeV_ne b (List.ne_of_not_mem_cons hr)

/-- A register write touches no piece of the state but the registers. -/
theorem State.sameBut_writeV (s : State) (x : Reg) (b : Byte) : SameBut [.v] s (s.writeV x b) := by
  intro p hp
  cases p with
  | v => exact absurd List.mem_cons_self hp
  | mem => exact s.memRead_writeV x b
  | _ => rfl

/-- LD Vx, kk completes with the register write and nothing more. -/
theorem exec_ldVxKk (x : Reg) (kk : Byte) (s : State) : exec (.ldVxKk x kk) s = .next (s.writeV x kk) := rfl

/-- Settles O28: the row is read off the opcode map, and the state that `exec` answers is the register write, whose
frame covers the rest; no case is made for x = F, as the write treats VF like any register. -/
theorem ldVxKkLoadsTheImmediate : Obligations.LdVxKkLoadsTheImmediate := by
  intro x kk s
  have row (strict59 : Bool) : (Instr.ldVxKk x kk).row strict59 = ⟨0xF000, 0x6000⟩ := rfl
  exact ⟨row, s.writeV x kk, exec_ldVxKk x kk s, s.readV_writeV_same x kk, s.regsSameBut_writeV x kk,
    s.sameBut_writeV x kk⟩

end Sys2Proof.Machine
end

section
/-! Proofs about the ALU (42_alu.md): the write of a result and then its flag (R150), and SUB Vx, Vy (R156). -/

namespace Sys2Proof.Machine

/-! ### Frames compose -/

/-- A piece kept by each of two changes is kept by both together. -/
theorem Piece.same_trans {p : Piece} {s t u : State} (first : p.same s t) (second : p.same t u) : p.same s u := by
  cases p with
  | v | mem => exact fun a => (second a).trans (first a)
  | _ => exact second.trans first

theorem SameBut.trans {ps : List Piece} {s t u : State} (first : SameBut ps s t) (second : SameBut ps t u) :
    SameBut ps s u :=
  fun p hp => Piece.same_trans (first p hp) (second p hp)

/-! ### The result to Vx, then the flag to VF -/

/-- VF holds the flag whatever the target is, as the flag is written last (R150). -/
theorem State.readV_vf_writeWithFlag (s : State) (x : Reg) (result : Byte) (flag : Bool) :
    (s.writeWithFlag x result flag).readV vf = flagByte flag :=
  (s.writeV x result).readV_writeV_same vf (flagByte flag)

/-- A target other than VF holds the result: the flag's write does not reach it. -/
theorem State.readV_target_writeWithFlag (s : State) {x : Reg} (result : Byte) (flag : Bool) (hx : x ≠ vf) :
    (s.writeWithFlag x result flag).readV x = result := by
  rw [State.writeWithFlag, State.readV_writeV_ne _ _ hx, State.readV_writeV_same]

theorem State.regsSameBut_writeWithFlag (s : State) (x : Reg) (result : Byte) (flag : Bool) :
    RegsSameBut [x, vf] s (s.writeWithFlag x result flag) := by
  intro r hr
  obtain ⟨notTarget, notVf⟩ : r ≠ x ∧ r ≠ vf := by simpa using hr
  rw [State.writeWithFlag, State.readV_writeV_ne _ _ notVf, State.readV_writeV_ne _ _ notTarget]

theorem State.sameBut_writeWithFlag (s : State) (x : Reg) (result : Byte) (flag : Bool) :
    SameBut [.v] s (s.writeWithFlag x result flag) :=
  (s.sameBut_writeV x result).trans ((s.writeV x result).sameBut_writeV vf (flagByte flag))

/-! ### Subtraction and its flag -/

/-- The difference of two bytes is the integer difference mod 256, also when it borrows. -/
theorem toNat_byte_sub (a b : Byte) : ((a - b).toNat : Int) = ((a.toNat : Int) - b.toNat) % 256 := by
  have ha : a.toNat < 256 := a.isLt
  have hb : b.toNat < 256 := b.isLt
  rw [BitVec.toNat_sub]
  omega

/-- The flag of a subtraction is 1 exactly when the minuend is at least the subtrahend. -/
theorem flagByte_notBorrow (a b : Byte) : flagByte (notBorrow a b) = if a.toNat ≥ b.toNat then 1 else 0 := by
  simp [flagByte, notBorrow]

/-- SUB Vx, Vy completes with the write of the difference and its flag, both of the operands as they were. -/
theorem exec_subVxVy (x y : Reg) (s : State) :
    exec (.subVxVy x y) s =
      .next (s.writeWithFlag x (s.readV x - s.readV y) (notBorrow (s.readV x) (s.readV y))) := rfl

/-- Settles O33: `exec` answers the write of the difference and then the flag; the difference is read back only from a
target other than VF, the flag is read from VF for every x, and the write's frame covers the rest. -/
theorem subSetsNotBorrow : Obligations.SubSetsNotBorrow := by
  intro x y s
  have row (strict59 : Bool) : (Instr.subVxVy x y).row strict59 = ⟨0xF00F, 0x8005⟩ := rfl
  refine ⟨row, _, exec_subVxVy x y s, fun hx => ?_, ?_, s.regsSameBut_writeWithFlag x _ _,
    s.sameBut_writeWithFlag x _ _⟩
  · rw [s.readV_target_writeWithFlag _ _ hx, toNat_byte_sub]
  · rw [s.readV_vf_writeWithFlag, flagByte_notBorrow]

end Sys2Proof.Machine
end

section
/-! Proofs about control flow (43_control_flow.md): the frame of a write of PC, and JP nnn (R170). -/

namespace Sys2Proof.Machine

/-- A write of PC touches no other piece of the state. -/
theorem State.sameBut_writePC (s : State) (w : Word) : SameBut [.pc] s (s.writePC w) := by
  intro p hp
  cases p with
  | pc => exact absurd List.mem_cons_self hp
  | v => exact s.readV_writePC w
  | mem => exact s.memRead_writePC w
  | _ => rfl

/-- Zero extension keeps an address's value, so it drops no bit of an odd one. -/
theorem toNat_zextAddr (nnn : Addr) : (zextAddr nnn).toNat = nnn.toNat :=
  BitVec.toNat_setWidth_of_le (by decide)

/-- JP nnn completes with the write of PC and nothing more. -/
theorem exec_jpNnn (nnn : Addr) (s : State) : exec (.jpNnn nnn) s = .next (s.writePC (zextAddr nnn)) := rfl

/-- Settles O36: the row is read off the opcode map, and the state that `exec` answers is the write of PC, whose frame
covers the rest; no case is made for an odd target, as zero extension keeps every value. -/
theorem jumpSetsPcToTheTarget : Obligations.JumpSetsPcToTheTarget := by
  intro nnn s
  have row (strict59 : Bool) : (Instr.jpNnn nnn).row strict59 = ⟨0xF000, 0x1000⟩ := rfl
  exact ⟨row, s.writePC (zextAddr nnn), exec_jpNnn nnn s, toNat_zextAddr nnn, s.sameBut_writePC _⟩

end Sys2Proof.Machine
end

section
/-! Proofs about the memory operations (46_memory_ops.md): the frame of a write of I, and LD I, nnn (R210). -/

namespace Sys2Proof.Machine

/-- A write of I touches no other piece of the state. -/
theorem State.sameBut_writeI (s : State) (w : Word) : SameBut [.i] s (s.writeI w) := by
  intro p hp
  cases p with
  | i => exact absurd List.mem_cons_self hp
  | v => exact s.readV_writeI w
  | mem => exact s.memRead_writeI w
  | _ => rfl

/-- LD I, nnn completes with the write of I and nothing more. -/
theorem exec_ldINnn (nnn : Addr) (s : State) : exec (.ldINnn nnn) s = .next (s.writeI (zextAddr nnn)) := rfl

/-- Settles O51: the row is read off the opcode map, and the state that `exec` answers is the write of I, whose frame
covers the rest; I reads nnn, as zero extension keeps an address's value. -/
theorem ldILoadsTheAddress : Obligations.LdILoadsTheAddress := by
  intro nnn s
  have row (strict59 : Bool) : (Instr.ldINnn nnn).row strict59 = ⟨0xF000, 0xA000⟩ := rfl
  exact ⟨row, s.writeI (zextAddr nnn), exec_ldINnn nnn s, toNat_zextAddr nnn, s.sameBut_writeI _⟩

end Sys2Proof.Machine
end

section
/-! Proofs about encoding and decoding (30_encoding.md): the dispatch group by group, the round trips, and the opcode
map. -/

namespace Sys2Proof

/-! ### Words and their bytes -/

/-- A word is the word of its own two bytes (R55). -/
theorem wordOfBytes_extract (w : Word) : wordOfBytes (w.extractLsb' 8 8) (w.extractLsb' 0 8) = w := by
  unfold wordOfBytes
  ext j hj
  simp only [BitVec.getElem_append, BitVec.getElem_extractLsb']
  split
  all_goals (rw [← BitVec.getLsbD_eq_getElem]; congr 1; omega)

/-- A word of format NNN, as the OR that R81 writes. -/
theorem packNNN_eq_shiftLeft_or (g : Nibble) (nnn : Addr) :
    packNNN g nnn = (g.setWidth 16 <<< 12) ||| nnn.setWidth 16 := by
  rw [packNNN, BitVec.append_def, BitVec.shiftLeftZeroExtend_eq, BitVec.setWidth'_eq]

/-- The two bytes of a word decode to what the word decodes to, with nothing left over. -/
theorem decode_bytesOfWord {strict59 : Bool} {w : Word} {i : Instr} (h : decodeWord strict59 w = .ok i) :
    decode strict59 (bytesOfWord w) = .ok (i, []) := by
  simp [decode, bytesOfWord, wordOfBytes_extract, h]

theorem decodeWord_eq_ok {strict59 : Bool} {w : Word} {i : Instr} :
    decodeWord strict59 w = .ok i ↔ lookup strict59 w = some i := by
  unfold decodeWord
  cases lookup strict59 w <;> simp

theorem decodeWord_eq_error {strict59 : Bool} {w : Word} {e : DecodeError} :
    decodeWord strict59 w = .error e ↔ lookup strict59 w = none ∧ e = .unknownOpcode w := by
  unfold decodeWord
  cases lookup strict59 w <;> simp [eq_comm]

/-! ### Decode of encode -/

theorem decodeGroup59_of_wellFormed {strict59 : Bool} {n : Nibble} (i : Instr) (h : (!strict59 || n == 0) = true) :
    decodeGroup59 strict59 n i = some i := by
  unfold decodeGroup59
  split <;> simp_all

/-- Dispatch finds every well-formed instruction from its word: first the group, then the second-level selector. -/
theorem lookup_encode {strict59 : Bool} {i : Instr} (h : i.wellFormed strict59 = true) :
    lookup strict59 (encode i) = some i := by
  cases i with
  | cls | ret => rfl
  | jpNnn | callNnn | ldINnn | jpV0Nnn =>
    simp only [lookup, encode, groupOf_packNNN, nnnOf_packNNN]
    rfl
  | seVxVy | sneVxVy =>
    simp only [lookup, encode, groupOf_packXYN, xOf_packXYN, yOf_packXYN, nOf_packXYN]
    exact decodeGroup59_of_wellFormed _ h
  | ldVxVy | orVxVy | andVxVy | xorVxVy | addVxVy | subVxVy | shrVxVy | subnVxVy | shlVxVy | drwVxVyN =>
    simp only [lookup, encode, groupOf_packXYN, xOf_packXYN, yOf_packXYN, nOf_packXYN]
    rfl
  | _ =>
    simp only [lookup, encode, groupOf_packXKK, xOf_packXKK, kkOf_packXKK]
    rfl

theorem decodeWord_encode {strict59 : Bool} {i : Instr} (h : i.wellFormed strict59 = true) :
    decodeWord strict59 (encode i) = .ok i :=
  decodeWord_eq_ok.2 (lookup_encode h)

/-- Settles O1: the two bytes are put together again to the word, and dispatch finds the instruction from its word. -/
theorem encodedInstructionsDecodeBack : Obligations.EncodedInstructionsDecodeBack :=
  fun _ _ h => decode_bytesOfWord (decodeWord_encode h)

/-! ### Encode of decode -/

theorem packXYN_of_group {w : Word} {g : Fin 16} (h : groupOf w = g) :
    packXYN (BitVec.ofFin g) (xOf w) (yOf w) (nOf w) = w := by
  subst h
  exact packXYN_fields w

theorem packXKK_of_group {w : Word} {g : Fin 16} (h : groupOf w = g) :
    packXKK (BitVec.ofFin g) (xOf w) (kkOf w) = w := by
  subst h
  exact packXKK_fields w

theorem packNNN_of_group {w : Word} {g : Fin 16} (h : groupOf w = g) :
    packNNN (BitVec.ofFin g) (nnnOf w) = w := by
  subst h
  exact packNNN_fields w

/-- The instruction is the meaning of the word: it encodes to the word, and a core with this parameter has it. -/
def Decodes (strict59 : Bool) (w : Word) (i : Instr) : Prop := encode i = w ∧ i.wellFormed strict59 = true

theorem decodeGroup0_sound (strict59 : Bool) {w : Word} {i : Instr} (h : decodeGroup0 w = some i) :
    Decodes strict59 w i := by
  unfold decodeGroup0 at h
  split_ifs at h <;> cases h <;> subst w <;> exact ⟨rfl, rfl⟩

theorem decodeGroup8_sound (strict59 : Bool) {x y : Reg} {n : Nibble} {i : Instr} (h : decodeGroup8 x y n = some i) :
    Decodes strict59 (packXYN 0x8 x y n) i := by
  unfold decodeGroup8 at h
  split_ifs at h <;> cases h <;> subst n <;> exact ⟨rfl, rfl⟩

theorem decodeGroupE_sound (strict59 : Bool) {x : Reg} {kk : Byte} {i : Instr} (h : decodeGroupE x kk = some i) :
    Decodes strict59 (packXKK 0xE x kk) i := by
  unfold decodeGroupE at h
  split_ifs at h <;> cases h <;> subst kk <;> exact ⟨rfl, rfl⟩

theorem decodeGroupF_sound (strict59 : Bool) {x : Reg} {kk : Byte} {i : Instr} (h : decodeGroupF x kk = some i) :
    Decodes strict59 (packXKK 0xF x kk) i := by
  unfold decodeGroupF at h
  split_ifs at h <;> cases h <;> subst kk <;> exact ⟨rfl, rfl⟩

theorem decodeGroup59_eq_some {strict59 : Bool} {n : Nibble} {i j : Instr} :
    decodeGroup59 strict59 n i = some j ↔ i = j ∧ (!strict59 || n == 0) = true := by
  unfold decodeGroup59
  cases strict59 <;> simp
  tauto

/-- Whatever group a word is of, the instruction that dispatch finds is its meaning. -/
theorem lookup_sound {strict59 : Bool} {w : Word} {i : Instr} (h : lookup strict59 w = some i) :
    Decodes strict59 w i := by
  unfold lookup at h
  split at h
  case h_1 => exact decodeGroup0_sound strict59 h
  case h_6 g | h_10 g =>
    obtain ⟨rfl, wf⟩ := decodeGroup59_eq_some.1 h
    exact ⟨packXYN_of_group g, wf⟩
  case h_9 g => exact packXYN_of_group g ▸ decodeGroup8_sound strict59 h
  case h_15 g => exact packXKK_of_group g ▸ decodeGroupE_sound strict59 h
  case h_16 =>
    have g : groupOf w = 0xF := by
      generalize groupOf w = g at *
      revert g; decide
    exact packXKK_of_group g ▸ decodeGroupF_sound strict59 h
  case h_2 g | h_3 g | h_11 g | h_12 g =>
    cases h
    exact ⟨packNNN_of_group g, rfl⟩
  case h_14 g =>
    cases h
    exact ⟨packXYN_of_group g, rfl⟩
  all_goals
    cases h
    exact ⟨packXKK_of_group ‹_›, rfl⟩

/-- Settles O2: dispatch is sound in every group. -/
theorem decodedWordsEncodeBack : Obligations.DecodedWordsEncodeBack :=
  fun _ _ _ h => lookup_sound (decodeWord_eq_ok.1 h)

/-! ### The unknown words -/

theorem decodeGroup0_eq_none {w : Word} : decodeGroup0 w = none ↔ w ≠ 0x00E0 ∧ w ≠ 0x00EE := by
  unfold decodeGroup0
  split_ifs <;> simp_all

theorem decodeGroup8_eq_none {x y : Reg} {n : Nibble} :
    decodeGroup8 x y n = none ↔ n ∈ [0x8#4, 0x9#4, 0xA#4, 0xB#4, 0xC#4, 0xD#4, 0xF#4] := by
  have rest : ∀ n : Nibble, n ∈ [0x8#4, 0x9#4, 0xA#4, 0xB#4, 0xC#4, 0xD#4, 0xF#4] ↔
      n ∉ [0x0#4, 0x1#4, 0x2#4, 0x3#4, 0x4#4, 0x5#4, 0x6#4, 0x7#4, 0xE#4] := by decide
  rw [rest]
  unfold decodeGroup8
  split_ifs <;> simp_all

theorem decodeGroupE_eq_none {x : Reg} {kk : Byte} : decodeGroupE x kk = none ↔ kk ∉ [0x9E#8, 0xA1#8] := by
  unfold decodeGroupE
  split_ifs <;> simp_all

theorem decodeGroupF_eq_none {x : Reg} {kk : Byte} :
    decodeGroupF x kk = none ↔
      kk ∉ [0x07#8, 0x0A#8, 0x15#8, 0x18#8, 0x1E#8, 0x29#8, 0x33#8, 0x55#8, 0x65#8] := by
  unfold decodeGroupF
  split_ifs <;> simp_all

theorem decodeGroup59_eq_none {strict59 : Bool} {n : Nibble} {i : Instr} :
    decodeGroup59 strict59 n i = none ↔ strict59 = true ∧ n ≠ 0 := by
  unfold decodeGroup59
  split_ifs <;> simp_all

/-- Settles O4: the group chooses the second level, and each second level refuses exactly the selectors it lists. -/
theorem unknownWordsByGroup : Obligations.UnknownWordsByGroup := by
  intro strict59 w
  rw [decodeWord_eq_error, and_iff_left rfl]
  unfold lookup
  split
  case h_16 =>
    have g : groupOf w = 0xF := by
      generalize groupOf w = g at *
      revert g; decide
    simp [decodeGroupF_eq_none, g]
  all_goals
    rename_i g
    simp [decodeGroup0_eq_none, decodeGroup8_eq_none, decodeGroupE_eq_none, decodeGroup59_eq_none, g]

/-! ### The opcode map -/

/-- The encoding of every well-formed instruction lies in the instruction's own row (the per-instruction family). -/
theorem encode_in_row (i : Instr) : Laws.EncodeInRow.Statement i := by
  cases i with
  | cls => exact Laws.EncodeInRow.cls
  | ret => exact Laws.EncodeInRow.ret
  | jpNnn nnn => exact Laws.EncodeInRow.jpNnn nnn
  | callNnn nnn => exact Laws.EncodeInRow.callNnn nnn
  | seVxKk x kk => exact Laws.EncodeInRow.seVxKk x kk
  | sneVxKk x kk => exact Laws.EncodeInRow.sneVxKk x kk
  | seVxVy x y n => exact Laws.EncodeInRow.seVxVy x y n
  | ldVxKk x kk => exact Laws.EncodeInRow.ldVxKk x kk
  | addVxKk x kk => exact Laws.EncodeInRow.addVxKk x kk
  | ldVxVy x y => exact Laws.EncodeInRow.ldVxVy x y
  | orVxVy x y => exact Laws.EncodeInRow.orVxVy x y
  | andVxVy x y => exact Laws.EncodeInRow.andVxVy x y
  | xorVxVy x y => exact Laws.EncodeInRow.xorVxVy x y
  | addVxVy x y => exact Laws.EncodeInRow.addVxVy x y
  | subVxVy x y => exact Laws.EncodeInRow.subVxVy x y
  | shrVxVy x y => exact Laws.EncodeInRow.shrVxVy x y
  | subnVxVy x y => exact Laws.EncodeInRow.subnVxVy x y
  | shlVxVy x y => exact Laws.EncodeInRow.shlVxVy x y
  | sneVxVy x y n => exact Laws.EncodeInRow.sneVxVy x y n
  | ldINnn nnn => exact Laws.EncodeInRow.ldINnn nnn
  | jpV0Nnn nnn => exact Laws.EncodeInRow.jpV0Nnn nnn
  | rndVxKk x kk => exact Laws.EncodeInRow.rndVxKk x kk
  | drwVxVyN x y n => exact Laws.EncodeInRow.drwVxVyN x y n
  | skpVx x => exact Laws.EncodeInRow.skpVx x
  | sknpVx x => exact Laws.EncodeInRow.sknpVx x
  | ldVxDT x => exact Laws.EncodeInRow.ldVxDT x
  | ldVxK x => exact Laws.EncodeInRow.ldVxK x
  | ldDTVx x => exact Laws.EncodeInRow.ldDTVx x
  | ldSTVx x => exact Laws.EncodeInRow.ldSTVx x
  | addIVx x => exact Laws.EncodeInRow.addIVx x
  | ldFVx x => exact Laws.EncodeInRow.ldFVx x
  | ldBVx x => exact Laws.EncodeInRow.ldBVx x
  | ldMIVx x => exact Laws.EncodeInRow.ldMIVx x
  | ldVxMI x => exact Laws.EncodeInRow.ldVxMI x

theorem row_mem_opcodeRows (strict59 : Bool) (i : Instr) : i.row strict59 ∈ opcodeRows strict59 := by
  cases i <;> simp [Instr.row, opcodeRows]

/-- Two rows of the map that agree on the bits both masks fix are one row. -/
theorem opcodeRows_disjoint (strict59 : Bool) : ∀ r ∈ opcodeRows strict59, ∀ q ∈ opcodeRows strict59,
    r.pattern &&& q.mask = q.pattern &&& r.mask → r = q := by
  cases strict59 <;> decide

/-- At most one row selects a word: two that do agree on the bits both fix. -/
theorem eq_of_selects {strict59 : Bool} {w : Word} {r q : OpcodeRow} (hr : r ∈ opcodeRows strict59)
    (hq : q ∈ opcodeRows strict59) (hrw : r.selects w) (hqw : q.selects w) : r = q := by
  refine opcodeRows_disjoint strict59 r hr q hq ?_
  rw [← hrw, ← hqw, BitVec.and_assoc, BitVec.and_assoc, BitVec.and_comm r.mask]

/-- A field that the mask of a row covers is the pattern's, in every word that selects the row. -/
theorem field_of_selects {w : Word} {r : OpcodeRow} (h : r.selects w) (start len : Nat)
    (covered : r.mask.extractLsb' start len = BitVec.allOnes len) :
    w.extractLsb' start len = r.pattern.extractLsb' start len := by
  rw [← h, BitVec.extractLsb'_and, covered, BitVec.and_allOnes]

theorem groupOf_of_selects {strict59 : Bool} {w : Word} {r : OpcodeRow} (hr : r ∈ opcodeRows strict59)
    (h : r.selects w) : groupOf w = groupOf r.pattern := by
  have covered : ∀ b, ∀ r ∈ opcodeRows b, r.mask.extractLsb' 12 4 = BitVec.allOnes 4 := by decide
  exact congrArg BitVec.toFin (field_of_selects h 12 4 (covered strict59 r hr))

theorem nOf_of_selects {w : Word} {r : OpcodeRow} (h : r.selects w) (covered : nOf r.mask = BitVec.allOnes 4) :
    nOf w = nOf r.pattern := field_of_selects h 0 4 covered

theorem kkOf_of_selects {w : Word} {r : OpcodeRow} (h : r.selects w) (covered : kkOf r.mask = BitVec.allOnes 8) :
    kkOf w = kkOf r.pattern := field_of_selects h 0 8 covered

/-- A word that the decoder refuses selects no row: in its group, the rows fix the selector it was refused for. -/
theorem not_selects_of_unknown {strict59 : Bool} {w : Word} {r : OpcodeRow}
    (unknown : decodeWord strict59 w = .error (.unknownOpcode w)) (hr : r ∈ opcodeRows strict59) : ¬ r.selects w := by
  intro h
  have group := groupOf_of_selects hr h
  obtain ⟨g, ne⟩ | ⟨g, ne⟩ | ⟨g, ne⟩ | ⟨g, ne⟩ | ⟨rfl, g, ne⟩ := (unknownWordsByGroup strict59 w).1 unknown
  · have rows : ∀ b, ∀ r ∈ opcodeRows b, groupOf r.pattern = 0x0 →
        r.mask = BitVec.allOnes 16 ∧ (r.pattern = 0x00E0 ∨ r.pattern = 0x00EE) := by decide
    obtain ⟨covered, known⟩ := rows strict59 r hr (group ▸ g)
    rw [← h, covered, BitVec.and_allOnes] at known
    exact known.elim ne.1 ne.2
  · have rows : ∀ b, ∀ r ∈ opcodeRows b, groupOf r.pattern = 0x8 → nOf r.mask = BitVec.allOnes 4 ∧
        nOf r.pattern ∉ [0x8#4, 0x9#4, 0xA#4, 0xB#4, 0xC#4, 0xD#4, 0xF#4] := by decide
    obtain ⟨covered, known⟩ := rows strict59 r hr (group ▸ g)
    exact known (nOf_of_selects h covered ▸ ne)
  · have rows : ∀ b, ∀ r ∈ opcodeRows b, groupOf r.pattern = 0xE → kkOf r.mask = BitVec.allOnes 8 ∧
        kkOf r.pattern ∈ [0x9E#8, 0xA1#8] := by decide
    obtain ⟨covered, known⟩ := rows strict59 r hr (group ▸ g)
    exact ne (kkOf_of_selects h covered ▸ known)
  · have rows : ∀ b, ∀ r ∈ opcodeRows b, groupOf r.pattern = 0xF → kkOf r.mask = BitVec.allOnes 8 ∧
        kkOf r.pattern ∈ [0x07#8, 0x0A#8, 0x15#8, 0x18#8, 0x1E#8, 0x29#8, 0x33#8, 0x55#8, 0x65#8] := by decide
    obtain ⟨covered, known⟩ := rows strict59 r hr (group ▸ g)
    exact ne (kkOf_of_selects h covered ▸ known)
  · have rows : ∀ r ∈ opcodeRows true, groupOf r.pattern = 0x5 ∨ groupOf r.pattern = 0x9 →
        nOf r.mask = BitVec.allOnes 4 ∧ nOf r.pattern = 0 := by decide
    obtain ⟨covered, known⟩ := rows r hr (group ▸ g)
    exact ne ((nOf_of_selects h covered).trans known)

/-- Settles O3: a decoded instruction encodes to the word, which lies in its row; a refused word selects no row,
group by group; and two rows that one word selects are one. -/
theorem dispatchAgreesWithTheOpcodeMap : Obligations.DispatchAgreesWithTheOpcodeMap := by
  intro strict59 w
  refine ⟨fun i hi => ⟨row_mem_opcodeRows strict59 i, ?_⟩, fun e he => ?_, fun r hr q hq => eq_of_selects hr hq⟩
  · obtain ⟨rfl, wf⟩ := lookup_sound (decodeWord_eq_ok.1 hi)
    exact encode_in_row i strict59 wf
  · obtain ⟨_, rfl⟩ := decodeWord_eq_error.1 he
    exact ⟨rfl, fun r hr => not_selects_of_unknown he hr⟩

/-- Settles O5: each word's group and selector are read off its digits. -/
theorem sampleWordsDecode : Obligations.SampleWordsDecode := by
  unfold Obligations.SampleWordsDecode
  decide

end Sys2Proof
end

section
/-! Frames of the updates that the instructions are made of: the pieces each one leaves unchanged. -/

namespace Sys2Proof.Machine

theorem SameBut.refl (ps : List Piece) (s : State) : SameBut ps s s := by
  intro p _
  cases p with
  | v | mem => exact fun _ => rfl
  | _ => rfl

theorem SameBut.mono {ps qs : List Piece} {s t : State} (h : SameBut ps s t) (sub : ps ⊆ qs) : SameBut qs s t :=
  fun p hp => h p fun hq => hp (sub hq)

/-- Two changes in a row leave what neither of them touches. -/
theorem SameBut.append {ps qs : List Piece} {s t u : State} (first : SameBut ps s t) (second : SameBut qs t u) :
    SameBut (ps ++ qs) s u :=
  (first.mono (List.subset_append_left ps qs)).trans (second.mono (List.subset_append_right ps qs))

theorem State.sameBut_writeDT (s : State) (b : Byte) : SameBut [.dt] s (s.writeDT b) := by
  intro p hp
  cases p with
  | dt => exact absurd List.mem_cons_self hp
  | v => exact s.readV_writeDT b
  | mem => exact s.memRead_writeDT b
  | _ => rfl

theorem State.sameBut_writeST (s : State) (b : Byte) : SameBut [.st] s (s.writeST b) := by
  intro p hp
  cases p with
  | st => exact absurd List.mem_cons_self hp
  | v => exact s.readV_writeST b
  | mem => exact s.memRead_writeST b
  | _ => rfl

theorem State.sameBut_writeLogic (s : State) (x : Reg) (result : Byte) : SameBut [.v] s (s.writeLogic x result) := by
  unfold State.writeLogic
  split
  · exact (s.sameBut_writeV x result).trans ((s.writeV x result).sameBut_writeV vf 0)
  · exact s.sameBut_writeV x result

theorem State.sameBut_skipIf (s : State) (c : Bool) : SameBut [.pc] s (s.skipIf c) := by
  cases c with
  | true => exact s.sameBut_writePC _
  | false => exact SameBut.refl _ s

theorem State.sameBut_stepI (s : State) (x : Reg) : SameBut [.i] s (s.stepI x) := by
  unfold State.stepI
  split
  · exact s.sameBut_writeI _
  · exact SameBut.refl _ s

theorem State.sameBut_memWrite (s : State) (a : Nat) (b : Byte) : SameBut [.mem] s (s.memWrite a b) := by
  intro p hp
  cases p with
  | mem => exact absurd List.mem_cons_self hp
  | v => exact s.readV_memWrite a b
  | _ => rfl

theorem State.sameBut_memWriteList (s : State) (a : Nat) (bs : List Byte) : SameBut [.mem] s (s.memWriteList a bs) := by
  induction bs generalizing s a with
  | nil => exact SameBut.refl _ s
  | cons b bs ih => exact (s.sameBut_memWrite a b).trans (ih (s.memWrite a b) (a + 1))

/-- The register loop of Fx65 touches the registers only. -/
theorem State.sameBut_loadRegs (f : Reg → Byte) (l : List Reg) (s : State) :
    SameBut [.v] s (l.foldl (fun t r => t.writeV r (f r)) s) := by
  induction l generalizing s with
  | nil => exact SameBut.refl _ s
  | cons r l ih => exact (s.sameBut_writeV r (f r)).trans (ih (s.writeV r (f r)))

/-- Recording a fault touches the record only (R222). -/
theorem State.sameBut_record (s : State) (r : Option FaultRecord) : SameBut [.fault] s { s with fault := r } := by
  intro p hp
  cases p with
  | fault => exact absurd List.mem_cons_self hp
  | v | mem => exact fun _ => rfl
  | _ => rfl

theorem State.sameBut_fb (s : State) (f : Framebuffer) : SameBut [.fb] s { s with fb := f } := by
  intro p hp
  cases p with
  | fb => exact absurd List.mem_cons_self hp
  | v | mem => exact fun _ => rfl
  | _ => rfl

theorem State.sameBut_keys (s : State) (keys : Vector Bool 16) : SameBut [.keys] s { s with keys := keys } := by
  intro p hp
  cases p with
  | keys => exact absurd List.mem_cons_self hp
  | v | mem => exact fun _ => rfl
  | _ => rfl

theorem State.sameBut_prevKeys (s : State) (keys : Vector Bool 16) :
    SameBut [.prevKeys] s { s with prevKeys := keys } := by
  intro p hp
  cases p with
  | prevKeys => exact absurd List.mem_cons_self hp
  | v | mem => exact fun _ => rfl
  | _ => rfl

theorem State.sameBut_wait (s : State) (wait : Option Reg) (keys : Vector Bool 16) :
    SameBut [.wait, .prevKeys] s { s with wait := wait, prevKeys := keys } := by
  intro p hp
  cases p with
  | wait | prevKeys => simp at hp
  | v | mem => exact fun _ => rfl
  | _ => rfl

/-- The step's bookkeeping touches the model's own `rnd` and `loadOpen` only (log 4, log 8). -/
theorem State.sameBut_beginStep (s : State) (rnd : Byte) : SameBut [.rnd, .loadOpen] s (s.beginStep rnd) := by
  intro p hp
  cases p with
  | rnd | loadOpen => simp at hp
  | v | mem => exact fun _ => rfl
  | _ => rfl

end Sys2Proof.Machine
end

section
/-! Proofs about the other register operations (41_register_ops.md): 7xkk, 8xy0 and RND (R141 to R143). -/

namespace Sys2Proof.Machine

theorem exec_addVxKk (x : Reg) (kk : Byte) (s : State) :
    exec (.addVxKk x kk) s = .next (s.writeV x (s.readV x + kk)) := rfl

theorem exec_ldVxVy (x y : Reg) (s : State) : exec (.ldVxVy x y) s = .next (s.writeV x (s.readV y)) := rfl

theorem exec_rndVxKk (x : Reg) (kk : Byte) (s : State) :
    exec (.rndVxKk x kk) s = .next (s.writeV x (s.rnd &&& kk)) := rfl

/-- Settles O29: both are one register write, of the sum (which bytes take mod 256) and of the copy. -/
theorem addImmediateAndCopyWriteOnlyVx : Obligations.AddImmediateAndCopyWriteOnlyVx := by
  intro x y kk s
  refine ⟨⟨_, exec_addVxKk x kk s, ?_, s.regsSameBut_writeV x _, s.sameBut_writeV x _⟩,
    _, exec_ldVxVy x y s, s.readV_writeV_same x _, s.regsSameBut_writeV x _, s.sameBut_writeV x _⟩
  rw [s.readV_writeV_same, BitVec.toNat_add]

/-- Settles O30: one register write, and a bit of an AND is a bit of both sides. -/
theorem rndMasksTheRandomByte : Obligations.RndMasksTheRandomByte := by
  intro x kk s
  refine ⟨_, exec_rndVxKk x kk s, s.readV_writeV_same x _, fun j hj => ?_, s.regsSameBut_writeV x _,
    s.sameBut_writeV x _⟩
  rw [s.readV_writeV_same, BitVec.getLsbD_and, Bool.and_eq_true] at hj
  exact hj.2

end Sys2Proof.Machine
end

section
/-! Proofs about the rest of the ALU (42_alu.md): the logic operations, ADD, SUBN and the shifts. -/

namespace Sys2Proof.Machine

/-! ### Logic operations -/

theorem exec_orVxVy (x y : Reg) (s : State) :
    exec (.orVxVy x y) s = .next (s.writeLogic x (s.readV x ||| s.readV y)) := rfl

theorem exec_andVxVy (x y : Reg) (s : State) :
    exec (.andVxVy x y) s = .next (s.writeLogic x (s.readV x &&& s.readV y)) := rfl

theorem exec_xorVxVy (x y : Reg) (s : State) :
    exec (.xorVxVy x y) s = .next (s.writeLogic x (s.readV x ^^^ s.readV y)) := rfl

theorem State.writeLogic_of_not_resets {s : State} (h : s.cfg.logicResetsVf = false) (x : Reg) (result : Byte) :
    s.writeLogic x result = s.writeV x result := by
  simp [State.writeLogic, h]

/-- Under `LOGIC_RESETS_VF` the write is that of a result with a flag that is off (R151). -/
theorem State.writeLogic_of_resets {s : State} (h : s.cfg.logicResetsVf = true) (x : Reg) (result : Byte) :
    s.writeLogic x result = s.writeWithFlag x result false := by
  simp [State.writeLogic, State.writeWithFlag, flagByte, h]

/-- What the write of a logic result does under each value of `LOGIC_RESETS_VF`, for any result (R151). -/
theorem State.writeLogic_spec (s : State) (x : Reg) (result : Byte) :
    (s.cfg.logicResetsVf = false →
      (s.writeLogic x result).readV x = result ∧ RegsSameBut [x] s (s.writeLogic x result)) ∧
    (s.cfg.logicResetsVf = true →
      (s.writeLogic x result).readV vf = 0 ∧ (x ≠ vf → (s.writeLogic x result).readV x = result) ∧
        RegsSameBut [x, vf] s (s.writeLogic x result)) := by
  constructor
  · intro h
    rw [State.writeLogic_of_not_resets h]
    exact ⟨s.readV_writeV_same x result, s.regsSameBut_writeV x result⟩
  · intro h
    rw [State.writeLogic_of_resets h]
    exact ⟨s.readV_vf_writeWithFlag x result false, s.readV_target_writeWithFlag result false,
      s.regsSameBut_writeWithFlag x result false⟩

/-- Settles O31: the three operations are one write each, and the write's rule holds for any result. -/
theorem logicOperationsWriteVxAndMayClearVf : Obligations.LogicOperationsWriteVxAndMayClearVf := by
  intro x y s
  exact ⟨⟨_, exec_orVxVy x y s, s.sameBut_writeLogic x _, s.writeLogic_spec x _⟩,
    ⟨_, exec_andVxVy x y s, s.sameBut_writeLogic x _, s.writeLogic_spec x _⟩,
    ⟨_, exec_xorVxVy x y s, s.sameBut_writeLogic x _, s.writeLogic_spec x _⟩⟩

/-! ### Addition and the other subtraction -/

theorem exec_addVxVy (x y : Reg) (s : State) :
    exec (.addVxVy x y) s =
      .next (s.writeWithFlag x (s.readV x + s.readV y) (carryOut (s.readV x) (s.readV y))) := rfl

theorem exec_subnVxVy (x y : Reg) (s : State) :
    exec (.subnVxVy x y) s =
      .next (s.writeWithFlag x (s.readV y - s.readV x) (notBorrow (s.readV y) (s.readV x))) := rfl

/-- The flag of an addition is 1 exactly when the exact sum does not fit a byte. -/
theorem flagByte_carryOut (a b : Byte) : flagByte (carryOut a b) = if a.toNat + b.toNat > 255 then 1 else 0 := by
  simp [flagByte, carryOut]

/-- Settles O32: the write of the sum and then the carry. -/
theorem addSetsCarry : Obligations.AddSetsCarry := by
  intro x y s
  refine ⟨_, exec_addVxVy x y s, fun hx => ?_, ?_, s.regsSameBut_writeWithFlag x _ _, s.sameBut_writeWithFlag x _ _⟩
  · rw [s.readV_target_writeWithFlag _ _ hx, BitVec.toNat_add]
  · rw [s.readV_vf_writeWithFlag, flagByte_carryOut]

/-- Settles O34: the write of the difference and then its flag, the operands of O33 exchanged. -/
theorem subnSetsNotBorrow : Obligations.SubnSetsNotBorrow := by
  intro x y s
  refine ⟨_, exec_subnVxVy x y s, fun hx => ?_, ?_, s.regsSameBut_writeWithFlag x _ _, s.sameBut_writeWithFlag x _ _⟩
  · rw [s.readV_target_writeWithFlag _ _ hx, toNat_byte_sub]
  · rw [s.readV_vf_writeWithFlag, flagByte_notBorrow]

/-! ### Shifts -/

theorem exec_shrVxVy (x y : Reg) (s : State) :
    exec (.shrVxVy x y) s =
      .next (s.writeWithFlag x (s.shiftSource x y >>> 1) (lowBit (s.shiftSource x y))) := rfl

theorem exec_shlVxVy (x y : Reg) (s : State) :
    exec (.shlVxVy x y) s =
      .next (s.writeWithFlag x (s.shiftSource x y <<< 1) (highBit (s.shiftSource x y))) := rfl

theorem State.toNat_shiftSource (s : State) (x y : Reg) :
    (s.shiftSource x y).toNat = if s.cfg.shiftUsesVy then (s.readV y).toNat else (s.readV x).toNat := by
  unfold State.shiftSource
  split <;> rfl

theorem toNat_flagByte (f : Bool) : (flagByte f).toNat = f.toNat := by
  cases f <;> rfl

theorem toNat_lowBit (a : Byte) : (lowBit a).toNat = a.toNat % 2 := by
  rw [lowBit, BitVec.getLsbD, Nat.toNat_testBit]
  simp

theorem toNat_highBit (a : Byte) : (highBit a).toNat = a.toNat / 128 := by
  have := a.isLt
  rw [highBit, BitVec.getLsbD, Nat.toNat_testBit]
  omega

/-- Settles O35: the write of the shifted source and then the bit shifted out. -/
theorem shiftsSetTheBitShiftedOut : Obligations.ShiftsSetTheBitShiftedOut := by
  intro x y s src
  have source : (s.shiftSource x y).toNat = src := s.toNat_shiftSource x y
  refine ⟨⟨_, exec_shrVxVy x y s, fun hx => ?_, ?_, s.regsSameBut_writeWithFlag x _ _, s.sameBut_writeWithFlag x _ _⟩,
    _, exec_shlVxVy x y s, fun hx => ?_, ?_, s.regsSameBut_writeWithFlag x _ _, s.sameBut_writeWithFlag x _ _⟩
  · rw [s.readV_target_writeWithFlag _ _ hx, BitVec.toNat_ushiftRight, source, Nat.shiftRight_one]
  · rw [s.readV_vf_writeWithFlag, toNat_flagByte, toNat_lowBit, source]
  · rw [s.readV_target_writeWithFlag _ _ hx, BitVec.toNat_shiftLeft, source, Nat.shiftLeft_eq, Nat.mul_comm]
  · rw [s.readV_vf_writeWithFlag, toNat_flagByte, toNat_highBit, source]

end Sys2Proof.Machine
end

section
/-! Proofs about control transfer (43_control_flow.md): the skips, Bnnn, CALL and RET. -/

namespace Sys2Proof.Machine

/-! ### Skips and the indexed jump -/

theorem exec_seVxKk (x : Reg) (kk : Byte) (s : State) :
    exec (.seVxKk x kk) s = .next (s.skipIf (s.readV x == kk)) := rfl

theorem exec_sneVxKk (x : Reg) (kk : Byte) (s : State) :
    exec (.sneVxKk x kk) s = .next (s.skipIf (s.readV x != kk)) := rfl

theorem exec_seVxVy (x y : Reg) (n : Nibble) (s : State) :
    exec (.seVxVy x y n) s = .next (s.skipIf (s.readV x == s.readV y)) := rfl

theorem exec_sneVxVy (x y : Reg) (n : Nibble) (s : State) :
    exec (.sneVxVy x y n) s = .next (s.skipIf (s.readV x != s.readV y)) := rfl

theorem exec_jpV0Nnn (nnn : Addr) (s : State) : exec (.jpV0Nnn nnn) s = .next (s.writePC (s.jumpTarget nnn)) := rfl

theorem State.pc_skipIf_beq (s : State) (a b : Byte) :
    (s.skipIf (a == b)).pc = if a = b then s.pc + 2 else s.pc := by
  rw [State.pc_skipIf]
  by_cases h : a = b <;> simp [h]

theorem State.pc_skipIf_bne (s : State) (a b : Byte) :
    (s.skipIf (a != b)).pc = if a = b then s.pc else s.pc + 2 := by
  rw [State.pc_skipIf]
  by_cases h : a = b <;> simp [h]

/-- Settles O42: each is a skip on its comparison, in which n does not stand. -/
theorem comparisonSkips : Obligations.ComparisonSkips := by
  intro x y kk n s
  exact ⟨⟨_, exec_seVxKk x kk s, s.pc_skipIf_beq _ _, s.sameBut_skipIf _⟩,
    ⟨_, exec_sneVxKk x kk s, s.pc_skipIf_bne _ _, s.sameBut_skipIf _⟩,
    ⟨_, exec_seVxVy x y n s, s.pc_skipIf_beq _ _, s.sameBut_skipIf _⟩,
    ⟨_, exec_sneVxVy x y n s, s.pc_skipIf_bne _ _, s.sameBut_skipIf _⟩⟩

theorem exec_skpVx_of_key {x : Reg} {k : Key} {s : State} (h : (s.readV x).toNat = k.val) :
    exec (.skpVx x) s = .next (s.skipIf (s.pressed k)) := by
  simp only [exec, execSkpVx, keyOfByte_eq_some.2 h]

theorem exec_sknpVx_of_key {x : Reg} {k : Key} {s : State} (h : (s.readV x).toNat = k.val) :
    exec (.sknpVx x) s = .next (s.skipIf (!s.pressed k)) := by
  simp only [exec, execSknpVx, keyOfByte_eq_some.2 h]

theorem exec_skpVx_of_invalid {x : Reg} {s : State} (h : 15 < (s.readV x).toNat) :
    exec (.skpVx x) s = raiseBy .invalidKey (.skpVx x) s := by
  simp only [exec, execSkpVx, keyOfByte_eq_none.2 h]

theorem exec_sknpVx_of_invalid {x : Reg} {s : State} (h : 15 < (s.readV x).toNat) :
    exec (.sknpVx x) s = raiseBy .invalidKey (.sknpVx x) s := by
  simp only [exec, execSknpVx, keyOfByte_eq_none.2 h]

/-- Settles O43: the byte names the key k, and the two are skips on its state and on the opposite. -/
theorem keySkipsFollowTheKey : Obligations.KeySkipsFollowTheKey := by
  intro x k s h
  refine ⟨⟨_, exec_skpVx_of_key h, s.pc_skipIf _, s.sameBut_skipIf _⟩, _, exec_sknpVx_of_key h, ?_, s.sameBut_skipIf _⟩
  rw [State.pc_skipIf]
  cases s.pressed k <;> rfl

/-- SKP raises the fault or is a skip. -/
theorem exec_skpVx_cases (x : Reg) (s : State) :
    exec (.skpVx x) s = raiseBy .invalidKey (.skpVx x) s ∨ ∃ c, exec (.skpVx x) s = .next (s.skipIf c) :=
  match key : keyOfByte (s.readV x) with
  | none => .inl (exec_skpVx_of_invalid (keyOfByte_eq_none.1 key))
  | some _ => .inr ⟨_, exec_skpVx_of_key (keyOfByte_eq_some.1 key)⟩

theorem exec_sknpVx_cases (x : Reg) (s : State) :
    exec (.sknpVx x) s = raiseBy .invalidKey (.sknpVx x) s ∨ ∃ c, exec (.sknpVx x) s = .next (s.skipIf c) :=
  match key : keyOfByte (s.readV x) with
  | none => .inl (exec_sknpVx_of_invalid (keyOfByte_eq_none.1 key))
  | some _ => .inr ⟨_, exec_sknpVx_of_key (keyOfByte_eq_some.1 key)⟩

/-- Settles O44: the byte names no key, so both raise the fault. -/
theorem keySkipsRefuseCodesAboveFifteen : Obligations.KeySkipsRefuseCodesAboveFifteen := by
  intro x s h
  exact ⟨⟨_, exec_skpVx_of_invalid h, rfl, s.sameBut_record _⟩, _, exec_sknpVx_of_invalid h, rfl, s.sameBut_record _⟩

/-- The sum of a 12-bit address and a byte fits 16 bits. -/
theorem State.toNat_jumpTarget (s : State) (nnn : Addr) :
    (s.jumpTarget nnn).toNat = nnn.toNat + (s.jumpBase nnn).toNat := by
  have address : nnn.toNat < 4096 := nnn.isLt
  have base : (s.jumpBase nnn).toNat < 256 := (s.jumpBase nnn).isLt
  rw [State.jumpTarget, BitVec.toNat_ofNat]
  omega

theorem xOfNnn_eq {nnn : Addr} {x : Reg} (h : x.val = nnn.toNat / 256) : xOfNnn nnn = x := by
  have address : nnn.toNat < 4096 := nnn.isLt
  refine Fin.ext ?_
  rw [h, xOfNnn, BitVec.val_toFin, BitVec.extractLsb'_toNat, Nat.shiftRight_eq_div_pow]
  omega

/-- Settles O41: the sum is exact, and the base is chosen by the parameter. -/
theorem jumpV0AddsTheBaseRegister : Obligations.JumpV0AddsTheBaseRegister := by
  intro nnn s
  have target := s.toNat_jumpTarget nnn
  refine ⟨_, exec_jpV0Nnn nnn s, fun h => ?_, fun h x hx => ?_, s.sameBut_writePC _⟩
  · rwa [State.jumpBase, h] at target
  · rwa [State.jumpBase, h, xOfNnn_eq hx] at target

/-! ### CALL and RET -/

/-- The state after CALL on a stack with room. -/
def State.called (s : State) (nnn : Addr) : State :=
  { s with stack := s.stack.set s.sp s.pc, sp := s.sp + 1, pc := zextAddr nnn }

/-- The state after RET on a stack that holds an address. -/
def State.returned (s : State) : State := { s with sp := s.sp - 1, pc := s.stack.getD (s.sp - 1) 0 }

theorem exec_callNnn_of_room {s : State} (h : s.sp ≠ s.cfg.stackDepth) (nnn : Addr) :
    exec (.callNnn nnn) s = .next (s.called nnn) := by
  simp only [exec, execCallNnn, State.push_eq_some.2 ⟨h, rfl⟩]
  rfl

theorem exec_callNnn_of_full {s : State} (h : s.sp = s.cfg.stackDepth) (nnn : Addr) :
    exec (.callNnn nnn) s = raiseBy .stackOverflow (.callNnn nnn) s := by
  simp only [exec, execCallNnn, State.push_eq_none.2 h]

theorem exec_ret_of_held {s : State} (h : s.sp ≠ 0) : exec .ret s = .next s.returned := by
  simp only [exec, execRet, State.pop_eq_some.2 ⟨h, rfl, rfl⟩]
  rfl

theorem exec_ret_of_empty {s : State} (h : s.sp = 0) : exec .ret s = raiseBy .stackUnderflow .ret s := by
  simp only [exec, execRet, State.pop_eq_none.2 h]

/-- CALL raises the fault or pushes and jumps. -/
theorem exec_callNnn_cases (nnn : Addr) (s : State) :
    exec (.callNnn nnn) s = raiseBy .stackOverflow (.callNnn nnn) s ∨
      s.sp ≠ s.cfg.stackDepth ∧ exec (.callNnn nnn) s = .next (s.called nnn) :=
  (eq_or_ne s.sp s.cfg.stackDepth).imp (exec_callNnn_of_full · nnn) fun room => ⟨room, exec_callNnn_of_room room nnn⟩

/-- RET raises the fault or pops into PC. -/
theorem exec_ret_cases (s : State) :
    exec .ret s = raiseBy .stackUnderflow .ret s ∨ s.sp ≠ 0 ∧ exec .ret s = .next s.returned :=
  (eq_or_ne s.sp 0).imp exec_ret_of_empty fun held => ⟨held, exec_ret_of_held held⟩

theorem State.sameBut_called (s : State) (nnn : Addr) : SameBut [.pc, .stack, .sp] s (s.called nnn) := by
  intro p hp
  cases p with
  | pc | stack | sp => simp at hp
  | v | mem => exact fun _ => rfl
  | _ => rfl

theorem State.sameBut_returned (s : State) : SameBut [.pc, .sp] s s.returned := by
  intro p hp
  cases p with
  | pc | sp => simp at hp
  | v | mem => exact fun _ => rfl
  | _ => rfl

/-- The entry at SP after a call is the advanced PC, as the stack has an entry there. -/
theorem State.getElem?_called_self (s : State) (h : s.sp < s.stack.length) (nnn : Addr) :
    (s.called nnn).stack[s.sp]? = some s.pc :=
  List.getElem?_set_self h

theorem State.getElem?_called_ne (s : State) (nnn : Addr) {j : Nat} (h : j ≠ s.sp) :
    (s.called nnn).stack[j]? = s.stack[j]? :=
  List.getElem?_set_ne h.symm

theorem State.pc_returned {s : State} {w : Word} (h : s.stack[s.sp - 1]? = some w) : s.returned.pc = w := by
  simp [State.returned, h]

/-- Settles O37: with room the push writes the entry at SP, which the invariant says exists. -/
theorem callPushesTheReturnAddress : Obligations.CallPushesTheReturnAddress := by
  intro nnn s inv room
  exact ⟨_, exec_callNnn_of_room room.ne nnn, s.getElem?_called_self (inv.stackSize ▸ room) nnn, rfl,
    toNat_zextAddr nnn, fun _ hj => s.getElem?_called_ne nnn hj, s.sameBut_called nnn⟩

/-- Settles O38: the pop reads the entry below SP. -/
theorem retPopsIntoPc : Obligations.RetPopsIntoPc :=
  fun s _ held entry => ⟨_, exec_ret_of_held held, State.pc_returned entry, rfl, s.sameBut_returned⟩

/-- The word of a CALL, as the OR that R81 writes. -/
theorem encode_callNnn (nnn : Addr) : encode (.callNnn nnn) = 0x2000 ||| nnn.setWidth 16 :=
  packNNN_eq_shiftLeft_or 0x2 nnn

/-- Settles O39: on a full and on an empty stack both raise their fault, whose word is the encoding. -/
theorem stackFaultsAreRecorded : Obligations.StackFaultsAreRecorded := by
  intro s
  refine ⟨fun nnn full => ⟨_, exec_callNnn_of_full full nnn, ?_, s.sameBut_record _⟩,
    fun empty => ⟨_, exec_ret_of_empty empty, rfl, s.sameBut_record _⟩⟩
  rw [encode_callNnn]

/-! ### Calls and returns balance -/

/-- One instruction of a run on an unfaulted core. -/
theorem runInstrs_cons {i : Instr} {s t : State} (hf : s.fault = none) (h : exec i s.fetchAdvance = .next t)
    (is : List Instr) : runInstrs (i :: is) s = runInstrs is t := by
  simp only [runInstrs, hf, h]

/-- A run that ends in a next state has run its first instruction on an unfaulted core. -/
theorem runInstrs_cons_eq_next {i : Instr} {is : List Instr} {s t : State} (h : runInstrs (i :: is) s = .next t) :
    s.fault = none ∧ ∃ u, exec i s.fetchAdvance = .next u ∧ runInstrs is u = .next t := by
  unfold runInstrs at h
  cases hf : s.fault <;> rw [hf] at h
  · cases he : exec i s.fetchAdvance <;> rw [he] at h
    · exact ⟨rfl, _, rfl, h⟩
    all_goals cases h
  · cases h

/-- A run of two lists is the run of the second from where the first ends. -/
theorem runInstrs_append {is : List Instr} {s t : State} (h : runInstrs is s = .next t) (js : List Instr) :
    runInstrs (is ++ js) s = runInstrs js t := by
  induction is generalizing s with
  | nil =>
    cases h
    rfl
  | cons i is ih =>
    obtain ⟨hf, u, first, rest⟩ := runInstrs_cons_eq_next h
    rw [List.cons_append, runInstrs_cons hf first, ih rest]

/-- N calls and N returns as one list. -/
def callsThenReturns (targets : List Addr) : List Instr :=
  targets.map .callNnn ++ List.replicate targets.length .ret

/-- The calls and returns of one target more: a call before and a return after. -/
theorem callsThenReturns_cons (nnn : Addr) (targets : List Addr) :
    callsThenReturns (nnn :: targets) = .callNnn nnn :: (callsThenReturns targets ++ [.ret]) := by
  simp [callsThenReturns, List.replicate_succ']

/-- N calls and N returns keep SP, the entries below it and the absence of a fault, and end after the first call. By
induction on the calls: the inner ones keep the entry that the first call pushed, and the last return reads it. -/
theorem runInstrs_callsThenReturns (targets : List Addr) {s : State} (size : s.stack.length = s.cfg.stackDepth)
    (hf : s.fault = none) (room : s.sp + targets.length ≤ s.cfg.stackDepth) :
    ∃ t, runInstrs (callsThenReturns targets) s = .next t ∧ t.sp = s.sp ∧
      t.pc = (if targets = [] then s.pc else s.pc + 2) ∧ t.fault = none ∧
      ∀ j, j < s.sp → t.stack[j]? = s.stack[j]? := by
  induction targets generalizing s with
  | nil => exact ⟨s, rfl, rfl, rfl, hf, fun _ _ => rfl⟩
  | cons nnn targets ih =>
    rw [List.length_cons] at room
    have free : s.sp < s.cfg.stackDepth := by omega
    obtain ⟨t, run, sp, -, fault, below⟩ := @ih (s.fetchAdvance.called nnn)
      ((List.length_set ..).trans size) hf ((Nat.add_right_comm ..).trans_le room)
    change t.sp = s.sp + 1 at sp
    have entry : t.stack[s.sp]? = some (s.pc + 2) :=
      (below s.sp (Nat.lt_succ_self _)).trans (s.fetchAdvance.getElem?_called_self (size ▸ free) nnn)
    refine ⟨t.fetchAdvance.returned, ?_, ?_, ?_, fault, fun j hj => ?_⟩
    · rw [callsThenReturns_cons, runInstrs_cons hf (exec_callNnn_of_room (s := s.fetchAdvance) free.ne nnn),
        runInstrs_append run, runInstrs_cons fault (exec_ret_of_held (sp ▸ Nat.succ_ne_zero _))]
      rfl
    · exact congrArg (· - 1) sp
    · exact State.pc_returned (s := t.fetchAdvance) (sp ▸ entry)
    · exact (below j (Nat.lt_succ_of_lt hj)).trans (s.fetchAdvance.getElem?_called_ne nnn hj.ne)

/-- A return from the empty stack records its own word and fetch address. -/
theorem runInstrs_ret_of_empty {s : State} (hf : s.fault = none) (empty : s.sp = 0) :
    ∃ t, runInstrs [.ret] s = .next t ∧ t.fault = some ⟨.stackUnderflow, 0x00EE, s.pc⟩ := by
  refine ⟨_, runInstrs_cons hf (exec_ret_of_empty (s := s.fetchAdvance) empty) [], ?_⟩
  rw [State.pc_fetchAdvance, BitVec.add_sub_cancel]
  rfl

/-- Settles O40: the balance of calls and returns, and then a return from the empty stack. -/
theorem callsAndReturnsBalance : Obligations.CallsAndReturnsBalance := by
  intro targets s inv hf room
  obtain ⟨t, run, sp, pc, fault, below⟩ := runInstrs_callsThenReturns targets inv.stackSize hf room
  refine ⟨t, run, sp, pc, fault, below, fun empty => ?_⟩
  obtain ⟨u, last, record⟩ := runInstrs_ret_of_empty fault (sp.trans empty)
  refine ⟨u, ?_, record⟩
  rw [List.replicate_succ', ← List.append_assoc]
  exact (runInstrs_append run [.ret]).trans last

end Sys2Proof.Machine
end

section
/-! Proofs about the framebuffer instructions (44_display.md): CLS, DRW and Fx29. -/

namespace Sys2Proof.Machine

theorem exec_cls (s : State) : exec .cls s = .next { s with fb := Framebuffer.clear } := rfl

theorem exec_ldFVx (x : Reg) (s : State) : exec (.ldFVx x) s = .next (s.writeI (glyphAddr (s.readV x))) := rfl

theorem Framebuffer.pixel_clear (px : Fin 64) (py : Fin 32) : Framebuffer.pixel Framebuffer.clear px py = false := by
  simp [Framebuffer.pixel, Framebuffer.clear]

/-- Settles O45: CLS writes the clear framebuffer. -/
theorem clsClearsEveryPixel : Obligations.ClsClearsEveryPixel :=
  fun s => ⟨_, exec_cls s, Framebuffer.pixel_clear, s.sameBut_fb _⟩

theorem toNat_glyphAddr (b : Byte) : (glyphAddr b).toNat = 0x050 + 5 * (b.toNat % 16) := by
  have low : (b &&& 0x0F).toNat = b.toNat % 16 := Nat.and_two_pow_sub_one_eq_mod b.toNat 4
  rw [glyphAddr, low, BitVec.toNat_ofNat, Config.fontBase]
  omega

/-- Settles O48: the low digit is the remainder mod 16, and the glyph table lies below 2^16. -/
theorem ldFPointsAtTheGlyph : Obligations.LdFPointsAtTheGlyph :=
  fun x s => ⟨_, exec_ldFVx x s, toNat_glyphAddr (s.readV x), s.sameBut_writeI _⟩

/-! ### DRW -/

/-- The framebuffer and the collision after the sprite of `n` rows is drawn at (vx, vy). -/
def State.drawn (s : State) (vx vy : Byte) (n : Nibble) : Framebuffer × Bool :=
  drawPixels s.fb (s.spritePixels vx vy n.toNat)

theorem exec_drwVxVyN (x y : Reg) (n : Nibble) (s : State) :
    exec (.drwVxVyN x y n) s =
      .next (({ s with fb := (s.drawn (s.readV x) (s.readV y) n).1 }).writeV vf
        (flagByte (s.drawn (s.readV x) (s.readV y) n).2)) := rfl

/-- The sprite's pixels are distinct, as it has at most 15 rows. -/
theorem State.spritePixels_nibble_nodup (s : State) (vx vy : Byte) (n : Nibble) :
    (s.spritePixels vx vy n.toNat).Nodup :=
  s.spritePixels_nodup vx vy n.toNat (by have := n.isLt; omega)

open Classical in
/-- A pixel is inverted exactly when the sprite covers it. -/
theorem State.pixel_drawn (s : State) (vx vy : Byte) (n : Nibble) (px : Fin 64) (py : Fin 32) :
    Framebuffer.pixel (s.drawn vx vy n).1 px py =
      (Framebuffer.pixel s.fb px py ^^ decide (s.SpriteCovers vx vy n.toNat px py)) := by
  obtain ⟨pixels, -⟩ := drawPixels_spec _ (s.spritePixels_nibble_nodup vx vy n) s.fb false
  rw [State.drawn, drawPixels, pixels, decide_eq_decide.2 (s.mem_spritePixels vx vy n.toNat px py)]

/-- The sprite collides exactly when it covers a pixel that is on. -/
theorem State.collides_drawn (s : State) (vx vy : Byte) (n : Nibble) :
    (s.drawn vx vy n).2 = true ↔
      ∃ px py, s.SpriteCovers vx vy n.toNat px py ∧ Framebuffer.pixel s.fb px py = true := by
  obtain ⟨-, collides⟩ := drawPixels_spec _ (s.spritePixels_nibble_nodup vx vy n) s.fb false
  simp only [State.drawn, drawPixels, collides, Prod.exists, State.mem_spritePixels, Bool.false_eq_true, false_or]

theorem flagByte_eq_one {f : Bool} : flagByte f = 1 ↔ f = true := by
  cases f <;> decide

/-- Settles O46: the pixels and the collision are those of the drawn list, which holds each covered pixel once. -/
theorem drwInvertsTheSpritesPixels : Obligations.DrwInvertsTheSpritesPixels := by
  intro x y n s covers
  let drawn := s.drawn (s.readV x) (s.readV y) n
  have flag : State.readV (({ s with fb := drawn.1 }).writeV vf (flagByte drawn.2)) vf = flagByte drawn.2 :=
    State.readV_writeV_same _ vf _
  refine ⟨_, exec_drwVxVyN x y n s, fun px py h => ?_, fun px py h => ?_, fun h => ?_, fun h => ?_, ?_, ?_⟩
  · exact (s.pixel_drawn _ _ n px py).trans (by simp [covers, h])
  · exact (s.pixel_drawn _ _ n px py).trans (by simp [covers, h])
  · exact flag.trans (flagByte_eq_one.2 ((s.collides_drawn _ _ n).2 h))
  · have noCollision : drawn.2 = false := by
      rw [← Bool.not_eq_true, State.collides_drawn]
      rintro ⟨px, py, covered, on⟩
      rw [h px py covered] at on
      cases on
    rw [flag, noCollision]
    rfl
  · exact State.regsSameBut_writeV { s with fb := drawn.1 } vf _
  · exact ((s.sameBut_fb drawn.1).append (State.sameBut_writeV _ vf _)).mono (by simp)

/-- Drawing places are told apart mod 64 and mod 32 only, and the sprite is read from memory at I. -/
theorem State.spriteCovers_congr {s t : State} {vx vy wx wy : Byte} (mem : ∀ a, t.memRead a = s.memRead a)
    (i : t.i = s.i) (hx : wx.toNat % 64 = vx.toNat % 64) (hy : wy.toNat % 32 = vy.toNat % 32) (n : Nat)
    (px : Fin 64) (py : Fin 32) : t.SpriteCovers wx wy n px py ↔ s.SpriteCovers vx vy n px py := by
  have column (c : Nat) : (wx.toNat + c) % 64 = (vx.toNat + c) % 64 := Nat.ModEq.add_right c hx
  have row (r : Nat) : (wy.toNat + r) % 32 = (vy.toNat + r) % 32 := Nat.ModEq.add_right r hy
  simp only [State.SpriteCovers, mem, i, column, row]

/-- What the second draw finds after the first: its framebuffer, and the same sprite. -/
theorem exec_drwVxVyN_eq_next {x y : Reg} {n : Nibble} {s t : State} (h : exec (.drwVxVyN x y n) s = .next t) :
    t.fb = (s.drawn (s.readV x) (s.readV y) n).1 ∧ t.i = s.i ∧ ∀ a, t.memRead a = s.memRead a := by
  rw [exec_drwVxVyN] at h
  obtain rfl := Host.Outcome.next.inj h
  exact ⟨rfl, rfl, fun _ => rfl⟩

/-- Settles O47: the second draw covers the same pixels, and inverting twice restores each. -/
theorem drawingTwiceRestoresTheScreen : Obligations.DrawingTwiceRestoresTheScreen := by
  intro x y n s t h hx hy
  obtain ⟨fb, i, mem⟩ := exec_drwVxVyN_eq_next h
  have covers := State.spriteCovers_congr mem i hx hy n.toNat
  refine ⟨_, exec_drwVxVyN x y n t, Framebuffer.ext fun px py => ?_, ?_⟩
  · refine (t.pixel_drawn _ _ n px py).trans ?_
    rw [decide_eq_decide.2 (covers px py), fb, State.pixel_drawn, Bool.xor_assoc, Bool.xor_self, Bool.xor_false]
  · rw [State.readV_writeV_same, flagByte_eq_one, State.collides_drawn]
    simp only [covers]

end Sys2Proof.Machine
end

section
/-! Proofs about the timer and key-wait instructions (45_timers_keys.md R200 to R203). -/

namespace Sys2Proof.Machine

theorem exec_ldVxDT (x : Reg) (s : State) : exec (.ldVxDT x) s = .next (s.writeV x s.dt) := rfl

theorem exec_ldDTVx (x : Reg) (s : State) : exec (.ldDTVx x) s = .next (s.writeDT (s.readV x)) := rfl

theorem exec_ldSTVx (x : Reg) (s : State) : exec (.ldSTVx x) s = .next (s.writeST (s.readV x)) := rfl

theorem exec_ldVxK (x : Reg) (s : State) :
    exec (.ldVxK x) s = .next { s with wait := some x, prevKeys := s.keys } := rfl

/-- Settles O49: one write each, of a register or of a timer. -/
theorem timerInstructionsMoveBytes : Obligations.TimerInstructionsMoveBytes :=
  fun x s => ⟨⟨_, exec_ldVxDT x s, s.readV_writeV_same x _, s.regsSameBut_writeV x _, s.sameBut_writeV x _⟩,
    ⟨_, exec_ldDTVx x s, rfl, s.sameBut_writeDT _⟩, _, exec_ldSTVx x s, rfl, s.sameBut_writeST _⟩

/-- Settles O50: the wait and the last look are written, and no register. -/
theorem ldVxKBeginsTheWait : Obligations.LdVxKBeginsTheWait :=
  fun x s => ⟨_, exec_ldVxK x s, rfl, rfl, s.sameBut_wait _ _⟩

end Sys2Proof.Machine
end

section
/-! Proofs about the memory (20_memory.md): a read after a write, the canonical form, and fetch coherence. -/

namespace Sys2Proof.Machine

/-- Settles O19: the read after a write (the law of `memRead_memWrite`), and the write's frame. -/
theorem memoryReadsTheLastWrite : Obligations.MemoryReadsTheLastWrite :=
  fun s a c b => ⟨s.memRead_memWrite a c b, s.sameBut_memWrite a b⟩

/-- Settles O21: the two addresses differ mod 4096, so each read meets its own write. -/
theorem storeIsSeenByTheNextFetch : Obligations.StoreIsSeenByTheNextFetch := by
  intro s w
  have apart : s.pc.toNat % 4096 ≠ (s.pc.toNat + 1) % 4096 := by omega
  simp only [State.fetchWord, State.pc_memWrite, State.memRead_memWrite, if_neg apart, if_true]
  exact wordOfBytes_extract w

/-! ### Canonical memories -/

/-- In a list of strictly rising addresses a cell is listed exactly when it is found at its address. -/
theorem Memory.find_eq_some {m : Memory} (h : m.Pairwise (fun c d => c.1 < d.1)) {a : Nat} {b : Byte} :
    Memory.find m a = some b ↔ (a, b) ∈ m := by
  induction m with
  | nil => simp [Memory.find]
  | cons cell m ih =>
    obtain ⟨first, rest⟩ := List.pairwise_cons.1 h
    rw [Memory.find, List.mem_cons]
    split
    · rename_i same
      have above : (a, b) ∉ m := fun hm => (first _ hm).ne same
      subst same
      rw [or_iff_left above]
      simp [Prod.ext_iff, eq_comm]
    · rename_i other
      have differ : (a, b) ≠ cell := fun e => other (e ▸ rfl)
      rw [ih rest, or_iff_right differ]

/-- In the canonical form a cell is listed exactly when its address holds a byte that differs from the unlisted one. -/
theorem Memory.mem_iff_read {dflt : Nat → Byte} {m : Memory} (h : Memory.wf dflt m) {a : Nat} {b : Byte} :
    (a, b) ∈ m ↔ a < 4096 ∧ b ≠ dflt a ∧ Memory.read dflt m a = b := by
  rw [← Memory.find_eq_some h.1, Memory.read]
  constructor
  · intro found
    obtain ⟨bound, differ⟩ := h.2 _ ((Memory.find_eq_some h.1).1 found)
    exact ⟨bound, differ, by rw [found]; rfl⟩
  · rintro ⟨-, differ, read⟩
    cases found : Memory.find m a with
    | none => exact absurd (by rw [← read, found]; rfl) differ
    | some c => exact congrArg some (by rw [← read, found]; rfl)

/-- Settles O20: the two lists hold the same cells, and rising addresses leave one order for them. -/
theorem canonicalMemoriesAreDeterminedByTheirBytes : Obligations.CanonicalMemoriesAreDeterminedByTheirBytes := by
  intro dflt m n hm hn alike
  have cells (cell : Host.Cell) : cell ∈ m ↔ cell ∈ n := by
    obtain ⟨a, b⟩ := cell
    rw [Memory.mem_iff_read hm, Memory.mem_iff_read hn]
    refine and_congr_right fun bound => ?_
    rw [alike a bound]
  have nodup {l : Memory} (h : l.Pairwise (fun c d => c.1 < d.1)) : l.Nodup :=
    h.imp fun lt e => lt.ne (congrArg Prod.fst e)
  have perm : m.Perm n := (List.perm_ext_iff_of_nodup (nodup hm.1) (nodup hn.1)).2 cells
  exact perm.eq_of_pairwise (fun _ _ _ _ h h' => absurd h (Nat.lt_asymm h')) hm.1 hn.1

end Sys2Proof.Machine
end

section
/-! Proofs about the memory operations (46_memory_ops.md): Fx1E and the transfers Fx33, Fx55 and Fx65. -/

namespace Sys2Proof.Machine

theorem exec_addIVx (x : Reg) (s : State) :
    exec (.addIVx x) s = .next (s.writeI (s.i + (s.readV x).setWidth 16)) := rfl

/-- Settles O52: the byte is extended without loss, and words add mod 2^16. -/
theorem addIWrapsAtSixteenBits : Obligations.AddIWrapsAtSixteenBits := by
  intro x s
  refine ⟨_, exec_addIVx x s, ?_, s.sameBut_writeI _⟩
  rw [State.i_writeI, BitVec.toNat_add, BitVec.toNat_setWidth_of_le (by decide)]

theorem exec_ldBVx (x : Reg) (s : State) :
    exec (.ldBVx x) s = .next (s.memWriteList (s.effAddr 0) (bcdDigits (s.readV x))) := rfl

/-- The k-th byte of a list written at I is read at I + k. -/
theorem State.memRead_effAddr_memWriteList (s : State) {bs : List Byte} {k : Nat} {b : Byte} (hl : bs.length ≤ 4096)
    (h : bs[k]? = some b) : (s.memWriteList (s.effAddr 0) bs).memRead (s.effAddr k) = b :=
  State.memRead_memWriteList_inside bs s (s.effAddr 0) k b hl h

/-- A list write leaves the bytes outside the ones it stores. -/
theorem State.memSameOutside_memWriteList (s : State) (a : Nat) (bs : List Byte) :
    MemSameOutside a bs.length s (s.memWriteList a bs) :=
  State.memRead_memWriteList_outside bs s a

/-- Settles O53: the three digits are written as a list at I; each is below 10, or below 3 for the hundreds. -/
theorem ldBStoresThreeDigits : Obligations.LdBStoresThreeDigits := by
  intro x s
  have byte := (s.readV x).isLt
  have digit {k : Nat} {b : Byte} (h : (bcdDigits (s.readV x))[k]? = some b) :=
    s.memRead_effAddr_memWriteList (bs := bcdDigits (s.readV x)) (by simp [bcdDigits]) h
  refine ⟨_, exec_ldBVx x s, ?_, ?_, ?_, s.memSameOutside_memWriteList _ (bcdDigits _),
    s.sameBut_memWriteList _ _⟩
  · rw [digit rfl, BitVec.toNat_ofNat]
    omega
  · rw [digit rfl, BitVec.toNat_ofNat]
    omega
  · rw [digit rfl, BitVec.toNat_ofNat]
    omega

theorem exec_ldMIVx (x : Reg) (s : State) :
    exec (.ldMIVx x) s = .next ((s.memWriteList (s.effAddr 0) ((regsUpTo x).map s.readV)).stepI x) := rfl

theorem exec_ldVxMI (x : Reg) (s : State) :
    exec (.ldVxMI x) s =
      .next (((regsUpTo x).foldl (fun t r => t.writeV r (s.memRead (s.effAddr r.val))) s).stepI x) := rfl

/-- I after a transfer: x + 1 more mod 2^16 exactly under `LOADSTORE_INCREMENTS_I`. -/
theorem State.toNat_i_stepI (s : State) (x : Reg) :
    (s.stepI x).i.toNat = if s.cfg.loadStoreIncrementsI then (s.i.toNat + x.val + 1) % 65536 else s.i.toNat := by
  have := x.isLt
  unfold State.stepI
  split
  · rw [State.i_writeI, BitVec.toNat_add, BitVec.toNat_ofNat]
    omega
  · rfl

/-- The r-th byte of the registers V0..Vx is Vr. -/
theorem getElem?_regsUpTo {x r : Reg} (h : r ≤ x) : (regsUpTo x)[r.val]? = some r := by
  have bound : r.val < (regsUpTo x).length := by
    rw [length_regsUpTo]
    exact Nat.lt_succ_of_le h
  rw [List.getElem?_eq_getElem bound]
  exact congrArg some (Fin.ext (regsUpTo_get x r.val bound))

/-- Settles O54: the registers are written as a list at I, and then I moves. -/
theorem storeRegistersWritesVZeroToVx : Obligations.StoreRegistersWritesVZeroToVx := by
  intro x s
  have length : ((regsUpTo x).map s.readV).length = x.val + 1 := by rw [List.length_map, length_regsUpTo]
  refine ⟨_, exec_ldMIVx x s, fun r hr => ?_, fun c outside => ?_, ?_,
    (s.sameBut_memWriteList _ _).append (State.sameBut_stepI _ x)⟩
  · rw [State.memRead_stepI]
    refine s.memRead_effAddr_memWriteList (by have := x.isLt; omega) ?_
    rw [List.getElem?_map, getElem?_regsUpTo hr]
    rfl
  · rw [State.memRead_stepI]
    exact s.memSameOutside_memWriteList _ _ c (length ▸ outside)
  · rw [State.toNat_i_stepI, State.cfg_memWriteList, State.i_memWriteList]

/-- Settles O55: the loop writes each of V0..Vx once, and then I moves. -/
theorem loadRegistersReadsVZeroToVx : Obligations.LoadRegistersReadsVZeroToVx := by
  intro x s
  have loop := State.readV_loadRegs (fun r => s.memRead (s.effAddr r.val)) (regsUpTo x) (regsUpTo_nodup x) s
  have frame := s.sameBut_loadRegs (fun r => s.memRead (s.effAddr r.val)) (regsUpTo x)
  refine ⟨_, exec_ldVxMI x s, fun r hr => ?_, fun r hr => ?_, ?_, frame.append (State.sameBut_stepI _ x)⟩
  · rw [State.readV_stepI, loop, if_pos (mem_regsUpTo.2 hr)]
  · rw [State.readV_stepI, loop, if_neg (mem_regsUpTo.not.2 (not_le.2 hr))]
  · rw [State.toNat_i_stepI, frame .cfg (by decide), frame .i (by decide)]

end Sys2Proof.Machine
end

section
/-! Proofs about the host's transactions (00_scope.md R4): tick, set_key and load. -/

namespace Sys2Proof.Machine

/-! ### tick and set_key -/

theorem tick_of_faulted {s : State} {r : FaultRecord} (hf : s.fault = some r) : tick s = .fault (.halted r) := by
  simp only [tick, hf]

/-- The state after a tick on an unfaulted core. -/
def State.ticked (s : State) : State := { s with dt := countDown s.dt, st := countDown s.st, loadOpen := false }

theorem tick_of_running {s : State} (hf : s.fault = none) : tick s = .next s.ticked := by
  unfold tick
  split
  · rename_i r faulted
    cases hf.symm.trans faulted
  · rfl

theorem State.sameBut_ticked (s : State) : SameBut [.dt, .st, .loadOpen] s s.ticked := by
  intro p hp
  cases p with
  | dt | st | loadOpen => simp at hp
  | v | mem => exact fun _ => rfl
  | _ => rfl

/-- The decrement stops at 0, as subtraction of natural numbers does. -/
theorem toNat_countDown (b : Byte) : (countDown b).toNat = b.toNat - 1 := by
  unfold countDown
  split
  · subst b
    rfl
  · bv_omega

/-- Settles O56: a tick is the two decrements. -/
theorem tickDecrementsBothTimers : Obligations.TickDecrementsBothTimers :=
  fun s hf => ⟨_, tick_of_running hf, toNat_countDown s.dt, toNat_countDown s.st, s.sameBut_ticked⟩

theorem setKey_eq_next {k : Nat} {p : Bool} {s t : State} :
    setKey k p s = .next t ↔ ∃ h : k < 16, t = { s with keys := s.keys.set k p h } := by
  unfold setKey
  split <;> simp_all [eq_comm]

/-- Settles O57: the write of one entry of the keys, where the code is an index of one. -/
theorem setKeyWritesOneKey : Obligations.SetKeyWritesOneKey := by
  intro k p s
  refine ⟨fun valid => ⟨_, setKey_eq_next.2 ⟨valid, rfl⟩, fun j => ?_, s.sameBut_keys _⟩, fun invalid => ?_⟩
  · simp only [State.pressed, Fin.getElem_fin, Vector.getElem_set, eq_comm]
  · exact dif_neg (not_lt.2 invalid)

/-! ### load -/

theorem State.loadAdmitted_resetWith (c : Config) : (State.resetWith c).loadAdmitted = true := decide_eq_true rfl

/-- Any field that differs from the constructed core's closes `load` (R254). -/
theorem load_of_ne_reset {s : State} (h : s ≠ State.resetWith s.cfg) (rom : List Byte) :
    load rom s = .refused .loadNotAdmitted := by
  simp [load, State.loadAdmitted, h]

/-- What an admitted load answers: the ROM copied, or the record of one that is too long (R63). -/
theorem load_of_admitted {s : State} (h : s.loadAdmitted = true) (rom : List Byte) :
    load rom s = .next (if rom.length > 3584 then { s with loadOpen := false, fault := some ⟨.romTooLarge, 0, 0x200⟩ }
      else { (s.memWriteList 0x200 rom) with loadOpen := false }) := by
  unfold load
  rw [if_pos h]
  split <;> simp_all [raise]

theorem State.sameBut_loadOpen (s : State) (b : Bool) : SameBut [.loadOpen] s { s with loadOpen := b } := by
  intro p hp
  cases p with
  | loadOpen => exact absurd List.mem_cons_self hp
  | v | mem => exact fun _ => rfl
  | _ => rfl

/-- Settles O58: the constructed core admits the load, and the length decides between the copy and the record. -/
theorem loadCopiesTheRom : Obligations.LoadCopiesTheRom := by
  intro c rom s
  have answers := load_of_admitted (State.loadAdmitted_resetWith c) rom
  refine ⟨fun fits => ?_, fun long => ?_⟩
  · rw [if_neg (not_lt.2 fits)] at answers
    exact ⟨_, answers, fun j b hb => s.memRead_memWriteList_inside rom 0x200 j b (by omega) hb,
      s.memSameOutside_memWriteList 0x200 rom,
      (s.sameBut_memWriteList 0x200 rom).append (State.sameBut_loadOpen _ false)⟩
  · rw [if_pos long] at answers
    exact ⟨_, answers, rfl,
      (s.sameBut_record (some ⟨.romTooLarge, 0, 0x200⟩)).append (State.sameBut_loadOpen _ false)⟩

end Sys2Proof.Machine
end

section
/-! Rules about all instructions: which pieces each one writes (10_state.md), when one raises a fault (R117), and that
none reads `rnd` (R118), ST (R33) or a stale stack entry (R29) but the few that name it. -/

namespace Sys2Proof

/-- The pieces of the state an instruction can write, read off the spec's sections on each piece. -/
def Instr.pieces (incrementsI : Bool) : Instr → List Machine.Piece
  | .cls => [.fb]
  | .ret => [.pc, .sp, .fault]
  | .jpNnn _ | .jpV0Nnn _ | .seVxKk _ _ | .sneVxKk _ _ | .seVxVy _ _ _ | .sneVxVy _ _ _ => [.pc]
  | .callNnn _ => [.pc, .stack, .sp, .fault]
  | .skpVx _ | .sknpVx _ => [.pc, .fault]
  | .ldVxKk _ _ | .addVxKk _ _ | .ldVxVy _ _ | .rndVxKk _ _ | .ldVxDT _ | .orVxVy _ _ | .andVxVy _ _ | .xorVxVy _ _
  | .addVxVy _ _ | .subVxVy _ _ | .shrVxVy _ _ | .subnVxVy _ _ | .shlVxVy _ _ => [.v]
  | .ldINnn _ | .addIVx _ | .ldFVx _ => [.i]
  | .drwVxVyN _ _ _ => [.v, .fb]
  | .ldVxK _ => [.wait, .prevKeys]
  | .ldDTVx _ => [.dt]
  | .ldSTVx _ => [.st]
  | .ldBVx _ => [.mem]
  | .ldMIVx _ => if incrementsI then [.mem, .i] else [.mem]
  | .ldVxMI _ => if incrementsI then [.v, .i] else [.v]

end Sys2Proof

namespace Sys2Proof.Machine

/-! ### Every instruction answers a next state, and writes its own pieces only -/

theorem State.stepI_of_not_increments {s : State} (h : s.cfg.loadStoreIncrementsI = false) (x : Reg) :
    s.stepI x = s := by
  simp [State.stepI, h]

/-- The two memory transfers end with `stepI`, which writes I exactly under `LOADSTORE_INCREMENTS_I`. -/
theorem SameBut.stepI {p : Piece} {s t : State} (h : SameBut [p] s t) (cfg : t.cfg = s.cfg) (x : Reg) :
    SameBut (if s.cfg.loadStoreIncrementsI then [p, .i] else [p]) s (t.stepI x) := by
  split
  · exact h.append (t.sameBut_stepI x)
  · rename_i off
    rwa [State.stepI_of_not_increments (by rw [cfg]; simpa using off)]

/-- Every instruction answers a next state, in which only its own pieces are written. -/
theorem exec_sameBut (i : Instr) (s : State) :
    ∃ t, exec i s = .next t ∧ SameBut (i.pieces s.cfg.loadStoreIncrementsI) s t := by
  cases i with
  | cls => exact ⟨_, rfl, s.sameBut_fb _⟩
  | ret =>
    obtain h | ⟨-, h⟩ := exec_ret_cases s
    · exact ⟨_, h, (s.sameBut_record _).mono (by simp [Instr.pieces])⟩
    · exact ⟨_, h, s.sameBut_returned.mono (by simp [Instr.pieces])⟩
  | callNnn nnn =>
    obtain h | ⟨-, h⟩ := exec_callNnn_cases nnn s
    · exact ⟨_, h, (s.sameBut_record _).mono (by simp [Instr.pieces])⟩
    · exact ⟨_, h, (s.sameBut_called nnn).mono (by simp [Instr.pieces])⟩
  | skpVx x =>
    obtain h | ⟨c, h⟩ := exec_skpVx_cases x s
    · exact ⟨_, h, (s.sameBut_record _).mono (by simp [Instr.pieces])⟩
    · exact ⟨_, h, (s.sameBut_skipIf c).mono (by simp [Instr.pieces])⟩
  | sknpVx x =>
    obtain h | ⟨c, h⟩ := exec_sknpVx_cases x s
    · exact ⟨_, h, (s.sameBut_record _).mono (by simp [Instr.pieces])⟩
    · exact ⟨_, h, (s.sameBut_skipIf c).mono (by simp [Instr.pieces])⟩
  | jpNnn | jpV0Nnn => exact ⟨_, rfl, s.sameBut_writePC _⟩
  | seVxKk | sneVxKk | seVxVy | sneVxVy => exact ⟨_, rfl, s.sameBut_skipIf _⟩
  | ldVxKk | addVxKk | ldVxVy | rndVxKk | ldVxDT => exact ⟨_, rfl, s.sameBut_writeV _ _⟩
  | orVxVy | andVxVy | xorVxVy => exact ⟨_, rfl, s.sameBut_writeLogic _ _⟩
  | addVxVy | subVxVy | shrVxVy | subnVxVy | shlVxVy => exact ⟨_, rfl, s.sameBut_writeWithFlag _ _ _⟩
  | ldINnn | addIVx | ldFVx => exact ⟨_, rfl, s.sameBut_writeI _⟩
  | drwVxVyN => exact ⟨_, rfl, ((s.sameBut_fb _).append (State.sameBut_writeV _ _ _)).mono (by simp [Instr.pieces])⟩
  | ldVxK => exact ⟨_, rfl, s.sameBut_wait _ _⟩
  | ldDTVx => exact ⟨_, rfl, s.sameBut_writeDT _⟩
  | ldSTVx => exact ⟨_, rfl, s.sameBut_writeST _⟩
  | ldBVx => exact ⟨_, rfl, s.sameBut_memWriteList _ _⟩
  | ldMIVx => exact ⟨_, rfl, (s.sameBut_memWriteList _ _).stepI (s.cfg_memWriteList _ _) _⟩
  | ldVxMI => exact ⟨_, rfl, (s.sameBut_loadRegs _ _).stepI (s.sameBut_loadRegs _ _ .cfg (by decide)) _⟩

theorem sameBut_of_exec {i : Instr} {s t : State} (h : exec i s = .next t) :
    SameBut (i.pieces s.cfg.loadStoreIncrementsI) s t := by
  obtain ⟨u, hu, same⟩ := exec_sameBut i s
  obtain rfl := Host.Outcome.next.inj (h.symm.trans hu)
  exact same

/-- An instruction that stores nothing leaves the memory as it is held, not only as it is read. -/
theorem mem_of_exec {i : Instr} {s t : State} (h : exec i s = .next t) (hi : ∀ x, i ≠ .ldBVx x ∧ i ≠ .ldMIVx x) :
    t.mem = s.mem := by
  have answers : ∃ u, exec i s = .next u ∧ u.mem = s.mem := by
    cases i with
    | ldBVx x => exact absurd rfl (hi x).1
    | ldMIVx x => exact absurd rfl (hi x).2
    | ret => obtain h | ⟨-, h⟩ := exec_ret_cases s <;> exact ⟨_, h, rfl⟩
    | callNnn nnn => obtain h | ⟨-, h⟩ := exec_callNnn_cases nnn s <;> exact ⟨_, h, rfl⟩
    | skpVx x =>
      obtain h | ⟨c, h⟩ := exec_skpVx_cases x s
      exacts [⟨_, h, rfl⟩, ⟨_, h, s.mem_skipIf c⟩]
    | sknpVx x =>
      obtain h | ⟨c, h⟩ := exec_sknpVx_cases x s
      exacts [⟨_, h, rfl⟩, ⟨_, h, s.mem_skipIf c⟩]
    | seVxKk | sneVxKk | seVxVy | sneVxVy => exact ⟨_, rfl, s.mem_skipIf _⟩
    | orVxVy | andVxVy | xorVxVy => exact ⟨_, rfl, s.mem_writeLogic _ _⟩
    | ldVxMI => exact ⟨_, rfl, by rw [State.mem_stepI, State.loadRegs_eq]⟩
    | _ => exact ⟨_, rfl, rfl⟩
  obtain ⟨u, hu, same⟩ := answers
  obtain rfl := Host.Outcome.next.inj (h.symm.trans hu)
  exact same

/-- A logic operation writes its target, and VF under `LOGIC_RESETS_VF` (R151). -/
theorem State.regsSameBut_writeLogic (s : State) (x : Reg) (result : Byte) :
    RegsSameBut (if s.cfg.logicResetsVf then [x, vf] else [x]) s (s.writeLogic x result) := by
  obtain ⟨keeps, resets⟩ := s.writeLogic_spec x result
  split
  · rename_i on
    exact (resets on).2.2
  · rename_i off
    exact (keeps (Bool.not_eq_true _ ▸ off)).2

/-- Each instruction writes the registers that the table of R21 lists for it, and no other. -/
theorem regsSameBut_of_exec {i : Instr} {s t : State} (h : exec i s = .next t) :
    RegsSameBut (i.writesV s.cfg.logicResetsVf) s t := by
  have untouched (hv : Piece.v ∉ i.pieces s.cfg.loadStoreIncrementsI) {rs : List Reg} : RegsSameBut rs s t :=
    fun r _ => sameBut_of_exec h .v hv r
  cases i with
  | ldVxKk | addVxKk | ldVxVy | rndVxKk | ldVxDT =>
    obtain rfl := Host.Outcome.next.inj h
    exact s.regsSameBut_writeV _ _
  | orVxVy | andVxVy | xorVxVy =>
    obtain rfl := Host.Outcome.next.inj h
    exact s.regsSameBut_writeLogic _ _
  | addVxVy | subVxVy | shrVxVy | subnVxVy | shlVxVy =>
    obtain rfl := Host.Outcome.next.inj h
    exact s.regsSameBut_writeWithFlag _ _ _
  | drwVxVyN =>
    obtain rfl := Host.Outcome.next.inj h
    exact State.regsSameBut_writeV _ vf _
  | ldVxMI x =>
    obtain rfl := Host.Outcome.next.inj h
    intro r hr
    rw [State.readV_stepI, State.readV_loadRegs _ _ (regsUpTo_nodup x)]
    exact if_neg hr
  | ldMIVx => exact untouched (by cases s.cfg.loadStoreIncrementsI <;> simp [Instr.pieces])
  | _ => exact untouched (by simp [Instr.pieces])

/-- Settles O23: the tables of registers and of pieces, clause by clause; `Instr.pieces` holds a piece only for the
instructions the clause excludes. -/
theorem piecesAreWrittenOnlyByTheirInstructions : Obligations.PiecesAreWrittenOnlyByTheirInstructions := by
  intro i s t h
  have same := sameBut_of_exec h
  generalize hb : s.cfg.loadStoreIncrementsI = b at same
  refine ⟨regsSameBut_of_exec h, fun hi => same .pc ?_, fun hi => same .fault ?_, fun hi hi' hi'' => same .i ?_,
    fun hi => ⟨same .stack ?_, fun hi' => same .sp ?_⟩, fun hi => same .dt ?_, fun hi => same .st ?_, mem_of_exec h,
    fun hi hi' => same .fb ?_, fun hi => ⟨same .wait ?_, same .prevKeys ?_⟩, same .keys ?_, same .cfg ?_, same .rnd ?_,
    same .rndIndex ?_, same .loadOpen ?_⟩
  -- Every goal left is a look-up: the table of pieces holds this one only for the excluded instructions.
  all_goals
    clear h same
    cases b <;> cases i <;> simp_all [Instr.pieces, Instr.writesPC, Instr.canFault]

/-! ### Faults -/

/-- What an instruction can do to the fault: nothing, or record one of its three kinds with its own word and fetch
address and change nothing else (R117). -/
theorem fault_of_exec {i : Instr} {s t : State} (h : exec i s = .next t) :
    t.fault = s.fault ∨ ∃ kind ∈ [FaultKind.stackOverflow, .stackUnderflow, .invalidKey],
      t = { s with fault := some ⟨kind, encode i, s.pc - 2⟩ } := by
  cases hi : i.canFault with
  | false =>
    obtain ⟨-, -, fault, -⟩ := piecesAreWrittenOnlyByTheirInstructions i s t h
    exact .inl (fault hi)
  | true =>
    cases i with
    | ret =>
      obtain e | ⟨-, e⟩ := exec_ret_cases s <;> rw [e] at h
      · exact .inr ⟨_, by simp, raiseBy_eq_next.1 h⟩
      · exact .inl (Host.Outcome.next.inj h ▸ rfl)
    | callNnn nnn =>
      obtain e | ⟨-, e⟩ := exec_callNnn_cases nnn s <;> rw [e] at h
      · exact .inr ⟨_, by simp, raiseBy_eq_next.1 h⟩
      · exact .inl (Host.Outcome.next.inj h ▸ rfl)
    | skpVx x =>
      obtain e | ⟨c, e⟩ := exec_skpVx_cases x s <;> rw [e] at h
      · exact .inr ⟨_, by simp, raiseBy_eq_next.1 h⟩
      · exact .inl (Host.Outcome.next.inj h ▸ s.fault_skipIf c)
    | sknpVx x =>
      obtain e | ⟨c, e⟩ := exec_sknpVx_cases x s <;> rw [e] at h
      · exact .inr ⟨_, by simp, raiseBy_eq_next.1 h⟩
      · exact .inl (Host.Outcome.next.inj h ▸ s.fault_skipIf c)
    | _ => cases hi

/-- `load` on a faulted core is refused: the constructed core has no fault. -/
theorem load_of_faulted {s : State} {r : FaultRecord} (hf : s.fault = some r) (rom : List Byte) :
    load rom s = .refused .loadNotAdmitted := by
  refine load_of_ne_reset (fun e => ?_) rom
  rw [e] at hf
  cases hf

/-- Settles O22: an instruction keeps a record or replaces it by its own; of the transactions only `set_key` has a
transition, and it writes the keys. -/
theorem nothingClearsAFault : Obligations.NothingClearsAFault := by
  refine ⟨fun i s t hf h => ?_, fun tr s t r hf h => ?_, fun rnd s t hf h => ?_⟩
  · obtain same | ⟨kind, -, rfl⟩ := fault_of_exec h
    · rwa [same]
    · exact Option.some_ne_none _
  · cases tr with
    | load rom => cases (load_of_faulted hf rom).symm.trans h
    | step rnd => cases (stepWith_halted rnd hf).symm.trans h
    | tick => cases (tick_of_faulted hf).symm.trans h
    | setKey k p =>
      obtain ⟨_, rfl⟩ := setKey_eq_next.1 h
      exact ⟨hf, s.sameBut_keys _⟩
  · obtain ⟨r, hr⟩ := Option.ne_none_iff_exists'.1 hf
    cases (stepWith_halted rnd hr).symm.trans h

/-! ### What no instruction reads -/

/-- The outcome with its next state, where there is one, changed by `f`. -/
def mapNext (f : State → State) : Host.Outcome State Fault Refusal → Host.Outcome State Fault Refusal
  | .next s => .next (f s)
  | .fault r => .fault r
  | .refused r => .refused r

/-- The state with `rnd`, ST and the stack's entries changed, the three fields that few instructions read. -/
def State.remake (rnd st : Byte → Byte) (entries : List Word → List Word) (s : State) : State :=
  { s with rnd := rnd s.rnd, st := st s.st, stack := entries s.stack }

section Remake

variable (rnd st : Byte → Byte) (entries : List Word → List Word) (s : State)

theorem State.remake_skipIf (c : Bool) :
    (s.remake rnd st entries).skipIf c = (s.skipIf c).remake rnd st entries := by
  cases c <;> rfl

theorem State.remake_writeLogic (x : Reg) (b : Byte) :
    (s.remake rnd st entries).writeLogic x b = (s.writeLogic x b).remake rnd st entries := by
  unfold State.writeLogic
  rw [show (s.remake rnd st entries).cfg = s.cfg from rfl]
  split <;> rfl

theorem State.remake_stepI (x : Reg) :
    (s.remake rnd st entries).stepI x = (s.stepI x).remake rnd st entries := by
  unfold State.stepI
  rw [show (s.remake rnd st entries).cfg = s.cfg from rfl]
  split <;> rfl

theorem State.remake_memWriteList (a : Nat) (bs : List Byte) :
    (s.remake rnd st entries).memWriteList a bs = (s.memWriteList a bs).remake rnd st entries := by
  induction bs generalizing s a with
  | nil => rfl
  | cons b bs ih => exact ih (s.memWrite a b) (a + 1)

theorem State.remake_loadRegs (f : Reg → Byte) (l : List Reg) :
    l.foldl (fun t r => t.writeV r (f r)) (s.remake rnd st entries) =
      (l.foldl (fun t r => t.writeV r (f r)) s).remake rnd st entries := by
  induction l generalizing s with
  | nil => rfl
  | cons r l ih => exact ih (s.writeV r (f r))

/-- RND reads `rnd`, Fx18 writes ST, CALL and RET use the stack; every other instruction does the same whatever the
three hold, and passes them on. -/
theorem exec_remake {i : Instr} (notRnd : ∀ x kk, i ≠ .rndVxKk x kk) (notSt : ∀ x, i ≠ .ldSTVx x)
    (notCall : ∀ nnn, i ≠ .callNnn nnn) (notRet : i ≠ .ret) :
    exec i (s.remake rnd st entries) = mapNext (State.remake rnd st entries) (exec i s) := by
  cases i with
  | rndVxKk x kk => exact absurd rfl (notRnd x kk)
  | ldSTVx x => exact absurd rfl (notSt x)
  | callNnn nnn => exact absurd rfl (notCall nnn)
  | ret => exact absurd rfl notRet
  | skpVx x =>
    cases key : keyOfByte (s.readV x) with
    | none =>
      have invalid := keyOfByte_eq_none.1 key
      rw [exec_skpVx_of_invalid invalid, exec_skpVx_of_invalid (s := s.remake rnd st entries) invalid]
      rfl
    | some k =>
      have valid := keyOfByte_eq_some.1 key
      rw [exec_skpVx_of_key valid, exec_skpVx_of_key (s := s.remake rnd st entries) valid]
      exact congrArg _ (s.remake_skipIf rnd st entries _)
  | sknpVx x =>
    cases key : keyOfByte (s.readV x) with
    | none =>
      have invalid := keyOfByte_eq_none.1 key
      rw [exec_sknpVx_of_invalid invalid, exec_sknpVx_of_invalid (s := s.remake rnd st entries) invalid]
      rfl
    | some k =>
      have valid := keyOfByte_eq_some.1 key
      rw [exec_sknpVx_of_key valid, exec_sknpVx_of_key (s := s.remake rnd st entries) valid]
      exact congrArg _ (s.remake_skipIf rnd st entries _)
  | seVxKk | sneVxKk | seVxVy | sneVxVy => exact congrArg _ (s.remake_skipIf rnd st entries _)
  | orVxVy | andVxVy | xorVxVy => exact congrArg _ (s.remake_writeLogic rnd st entries _ _)
  | ldBVx => exact congrArg _ (s.remake_memWriteList rnd st entries _ _)
  | ldMIVx x =>
    exact congrArg _ ((congrArg (State.stepI · x) (s.remake_memWriteList rnd st entries _ _)).trans
      (State.remake_stepI rnd st entries _ x))
  | ldVxMI x =>
    exact congrArg _ ((congrArg (State.stepI · x) (s.remake_loadRegs rnd st entries _ _)).trans
      (State.remake_stepI rnd st entries _ x))
  | _ => rfl

/-- CALL and RET do the same whatever `rnd` and ST hold. -/
theorem exec_callNnn_remake (nnn : Addr) :
    exec (.callNnn nnn) (s.remake rnd st id) = mapNext (State.remake rnd st id) (exec (.callNnn nnn) s) := by
  by_cases full : s.sp = s.cfg.stackDepth
  · rw [exec_callNnn_of_full full, exec_callNnn_of_full (s := s.remake rnd st id) full]
    rfl
  · rw [exec_callNnn_of_room full, exec_callNnn_of_room (s := s.remake rnd st id) full]
    rfl

theorem exec_ret_remake : exec .ret (s.remake rnd st id) = mapNext (State.remake rnd st id) (exec .ret s) := by
  by_cases empty : s.sp = 0
  · rw [exec_ret_of_empty empty, exec_ret_of_empty (s := s.remake rnd st id) empty]
    rfl
  · rw [exec_ret_of_held empty, exec_ret_of_held (s := s.remake rnd st id) empty]
    rfl

end Remake

/-- Settles O25: the state with another `rnd` is the state remade in that field alone. -/
theorem onlyRndReadsTheRandomByte : Obligations.OnlyRndReadsTheRandomByte := by
  intro i s t b notRnd h
  suffices exec i (s.remake (fun _ => b) id id) = mapNext (State.remake (fun _ => b) id id) (exec i s) by
    rw [h] at this
    exact this
  cases i with
  | callNnn nnn => exact exec_callNnn_remake _ id s nnn
  | ret => exact exec_ret_remake _ id s
  | ldSTVx => rfl
  | _ => exact exec_remake _ id id s notRnd (by simp) (by simp) (by simp)

/-- Settles O26: the state with another ST is the state remade in that field alone; Fx18 writes over it. -/
theorem noInstructionReadsTheSoundTimer : Obligations.NoInstructionReadsTheSoundTimer := by
  intro i s t b h
  by_cases writesSt : ∃ x, i = .ldSTVx x
  · rw [if_pos writesSt, ← h]
    obtain ⟨x, rfl⟩ := writesSt
    rfl
  rw [if_neg writesSt]
  suffices exec i (s.remake id (fun _ => b) id) = mapNext (State.remake id (fun _ => b) id) (exec i s) by
    rw [h] at this
    exact this
  cases i with
  | callNnn nnn => exact exec_callNnn_remake id _ s nnn
  | ret => exact exec_ret_remake id _ s
  | rndVxKk => rfl
  | ldSTVx x => exact absurd ⟨x, rfl⟩ writesSt
  | _ => exact exec_remake id _ id s (by simp) (by simp) (by simp) (by simp)

/-- With other stack entries an instruction outside the four of `exec_remake` answers the same but for the entries. -/
theorem exec_with_stack {i : Instr} {s t : State} (notRnd : ∀ x kk, i ≠ .rndVxKk x kk) (notSt : ∀ x, i ≠ .ldSTVx x)
    (notCall : ∀ nnn, i ≠ .callNnn nnn) (notRet : i ≠ .ret) (h : exec i s = .next t) (entries : List Word) :
    exec i { s with stack := entries } = .next { t with stack := entries } := by
  have same := exec_remake id id (fun _ => entries) s notRnd notSt notCall notRet
  rw [h] at same
  exact same

/-- Settles O27: CALL writes the entry at SP and RET reads the one below it; every other instruction leaves the entries
and SP alone. -/
theorem staleStackEntriesAreUnobservable : Obligations.StaleStackEntriesAreUnobservable := by
  intro i s t entries size below h
  let u := { s with stack := entries }
  cases i with
  | callNnn nnn =>
    by_cases full : s.sp = s.cfg.stackDepth
    · rw [exec_callNnn_of_full full] at h
      obtain rfl := raiseBy_eq_next.1 h
      exact ⟨_, exec_callNnn_of_full (s := u) full nnn, rfl, below⟩
    · rw [exec_callNnn_of_room full] at h
      obtain rfl := Host.Outcome.next.inj h
      refine ⟨_, exec_callNnn_of_room (s := u) full nnn, rfl, fun j hj => ?_⟩
      simp only [State.called, List.getElem?_set, u, size]
      split
      · rfl
      · exact below j (by simp only [State.called] at hj; omega)
  | ret =>
    by_cases empty : s.sp = 0
    · rw [exec_ret_of_empty empty] at h
      obtain rfl := raiseBy_eq_next.1 h
      exact ⟨_, exec_ret_of_empty (s := u) empty, rfl, below⟩
    · rw [exec_ret_of_held empty] at h
      obtain rfl := Host.Outcome.next.inj h
      have popped : entries.getD (s.sp - 1) 0 = s.stack.getD (s.sp - 1) 0 := by
        rw [List.getD_eq_getElem?_getD, List.getD_eq_getElem?_getD, below (s.sp - 1) (by omega)]
      refine ⟨_, exec_ret_of_held (s := u) empty, ?_, fun j hj => below j (hj.trans_le (Nat.sub_le _ _))⟩
      simp only [State.returned, u, popped]
  | rndVxKk | ldSTVx =>
    obtain rfl := Host.Outcome.next.inj h
    exact ⟨_, rfl, rfl, below⟩
  | _ =>
    obtain ⟨-, -, -, -, stack, -⟩ := piecesAreWrittenOnlyByTheirInstructions _ s t h
    obtain ⟨stack, sp⟩ := stack (by simp)
    refine ⟨_, exec_with_stack (by simp) (by simp) (by simp) (by simp) h entries, rfl, fun j hj => ?_⟩
    exact (below j (sp (by simp) ▸ hj)).trans (congrArg (·[j]?) stack).symm

end Sys2Proof.Machine
end

section
/-! Proofs about the step cycle (40_step_cycle.md): fetch, advance and dispatch, the wait re-check, the faults a step
raises, the skips, and the end of a program. -/

namespace Sys2Proof.Machine

/-! ### What a step can do -/

/-- The state an instruction runs from: the step's bookkeeping done and PC advanced (R113). -/
def State.fetched (rnd : Byte) (s : State) : State := { s with pc := s.pc + 2, rnd := rnd, loadOpen := false }

theorem stepWith_of_decoded (rnd : Byte) {s : State} {i : Instr} (hf : s.fault = none) (hw : s.wait = none)
    (decoded : decodeWord s.cfg.strict59 s.fetchWord = .ok i) : stepWith rnd s = exec i (s.fetched rnd) := by
  rw [stepWith_fetching rnd hf hw, decoded, State.fetched]

theorem stepWith_of_unknown (rnd : Byte) {s : State} {e : DecodeError} (hf : s.fault = none) (hw : s.wait = none)
    (unknown : decodeWord s.cfg.strict59 s.fetchWord = .error e) :
    stepWith rnd s = raise .unknownOpcode s.fetchWord s.pc (s.fetched rnd) := by
  rw [stepWith_fetching rnd hf hw, unknown, State.fetched, raise]

/-- Everything a step with a next state can have done: a wait re-check, an instruction, or the record of an unknown
word. -/
theorem stepWith_cases {rnd : Byte} {s t : State} (h : stepWith rnd s = .next t) :
    s.fault = none ∧
      ((∃ x, s.wait = some x ∧ t = (s.beginStep rnd).waitRecheck x) ∨
       (s.wait = none ∧ ∃ i, decodeWord s.cfg.strict59 s.fetchWord = .ok i ∧ exec i (s.fetched rnd) = .next t) ∨
       (s.wait = none ∧ t = { s.fetched rnd with fault := some ⟨.unknownOpcode, s.fetchWord, s.pc⟩ })) := by
  cases hf : s.fault with
  | some r => cases (stepWith_halted rnd hf).symm.trans h
  | none =>
    refine ⟨rfl, ?_⟩
    cases hw : s.wait with
    | some x => exact .inl ⟨x, rfl, (Host.Outcome.next.inj ((stepWith_waiting rnd hf hw).symm.trans h)).symm⟩
    | none =>
      cases decoded : decodeWord s.cfg.strict59 s.fetchWord with
      | ok i => exact .inr (.inl ⟨rfl, i, rfl, (stepWith_of_decoded rnd hf hw decoded).symm.trans h⟩)
      | error e => exact .inr (.inr ⟨rfl, raise_eq_next.1 ((stepWith_of_unknown rnd hf hw decoded).symm.trans h)⟩)

theorem State.sameBut_fetched (rnd : Byte) (s : State) : SameBut [.pc, .rnd, .loadOpen] s (s.fetched rnd) := by
  intro p hp
  cases p with
  | pc | rnd | loadOpen => simp at hp
  | v | mem => exact fun _ => rfl
  | _ => rfl

/-- The fixed form of the step is the step under the next free byte (log 4). -/
theorem step_eq_stepWith (s : State) :
    step s = stepWith (Config.freeRnd s.rndIndex) { s with rndIndex := s.rndIndex + 1 } := rfl

/-! ### Fetch and dispatch -/

theorem decodeWord_of_decode_pair {strict59 : Bool} {hi lo : Byte} {i : Instr}
    (h : decode strict59 [hi, lo] = .ok (i, [])) : decodeWord strict59 (wordOfBytes hi lo) = .ok i := by
  cases decoded : decodeWord strict59 (wordOfBytes hi lo) <;> simp_all [decode]

/-- Settles O7: the two bytes at PC are those of the fetched word. -/
theorem stepRunsTheDecodedInstruction : Obligations.StepRunsTheDecodedInstruction := fun s _ hf hw h =>
  (step_eq_stepWith s).trans <| stepWith_of_decoded _ (s := { s with rndIndex := s.rndIndex + 1 }) hf hw
    (decodeWord_of_decode_pair h)

/-- Settles O9: the fault check comes first. -/
theorem faultedCoreTakesNoStep : Obligations.FaultedCoreTakesNoStep :=
  fun rnd s _ hf => ⟨stepWith_halted rnd hf, stepWith_halted _ (s := { s with rndIndex := s.rndIndex + 1 }) hf,
    tick_of_faulted hf⟩

/-- Settles O12: the record of an unknown word, over the advanced state. -/
theorem unknownWordIsRecorded : Obligations.UnknownWordIsRecorded := by
  intro rnd s e hf hw unknown
  exact ⟨_, stepWith_of_unknown rnd hf hw unknown, rfl, rfl,
    ((s.sameBut_fetched rnd).append (State.sameBut_record _ _)).mono (by simp)⟩

/-! ### The wait re-check -/

theorem State.newlyPressed_eq_true {s : State} {k : Key} :
    s.newlyPressed k = true ↔ s.pressed k = true ∧ s.prevKeys[k] = false := by
  simp [State.newlyPressed, State.pressed]

theorem State.newlyPressed_eq_false {s : State} {k : Key} :
    s.newlyPressed k = false ↔ ¬ (s.pressed k = true ∧ s.prevKeys[k] = false) := by
  rw [← State.newlyPressed_eq_true, Bool.not_eq_true]

theorem State.waitRecheck_of_none {s : State} (h : s.firstNewKey = none) (x : Reg) :
    s.waitRecheck x = { s with prevKeys := s.keys } := by
  simp only [State.waitRecheck, h]

theorem State.waitRecheck_of_some {s : State} {k : Key} (h : s.firstNewKey = some k) (x : Reg) :
    s.waitRecheck x = { (s.writeV x (BitVec.ofNat 8 k.val)) with prevKeys := s.keys, wait := none } := by
  simp only [State.waitRecheck, h]

/-- A wait re-check writes the target register, the wait and the last look, and nothing else. -/
theorem State.sameBut_waitRecheck (s : State) (x : Reg) : SameBut [.v, .wait, .prevKeys] s (s.waitRecheck x) := by
  cases h : s.firstNewKey with
  | none =>
    rw [State.waitRecheck_of_none h]
    exact (s.sameBut_prevKeys s.keys).mono (by simp)
  | some k =>
    rw [State.waitRecheck_of_some h]
    exact (s.sameBut_writeV x _).append (State.sameBut_wait _ none s.keys)

/-- Settles O10: no key is new, so the re-check takes over the keys and no more. -/
theorem waitGoesOnWithoutNewKey : Obligations.WaitGoesOnWithoutNewKey := by
  intro rnd s x hf hw noneNew
  have first : (s.beginStep rnd).firstNewKey = none :=
    State.firstNewKey_eq_none.2 fun k => State.newlyPressed_eq_false.2 (noneNew k)
  have answers := stepWith_waiting rnd hf hw
  rw [State.waitRecheck_of_none first] at answers
  exact ⟨_, answers, rfl,
    ((s.sameBut_beginStep rnd).append ((s.beginStep rnd).sameBut_prevKeys s.keys)).mono (by simp)⟩

/-- Settles O11: the first new key is the smallest one, and the re-check writes it. -/
theorem smallestNewKeyEndsTheWait : Obligations.SmallestNewKeyEndsTheWait := by
  intro rnd s x k hf hw new smaller
  have first : (s.beginStep rnd).firstNewKey = some k :=
    State.firstNewKey_eq_some.2 ⟨State.newlyPressed_eq_true.2 new,
      fun j hj => State.newlyPressed_eq_false.2 (smaller j hj)⟩
  have frame := ((s.sameBut_beginStep rnd).append ((s.beginStep rnd).sameBut_waitRecheck x)).mono
    (qs := [.v, .wait, .prevKeys, .rnd, .loadOpen]) (by simp)
  have answers := stepWith_waiting rnd hf hw
  rw [State.waitRecheck_of_some first] at answers frame
  refine ⟨_, answers, ?_, rfl, rfl, (s.beginStep rnd).regsSameBut_writeV x _, frame⟩
  refine (congrArg BitVec.toNat ((s.beginStep rnd).readV_writeV_same x _)).trans ?_
  rw [BitVec.toNat_ofNat]
  omega

/-! ### Faults -/

/-- Settles O13: a re-check raises nothing; an instruction's record has its encoding, which is the fetched word, and the
PC before the advance; an unknown word is recorded as such. -/
theorem faultsArePrecise : Obligations.FaultsArePrecise := by
  intro rnd s t hf h faulted
  obtain ⟨-, ⟨x, -, rfl⟩ | ⟨hw, i, decoded, run⟩ | ⟨hw, rfl⟩⟩ := stepWith_cases h
  · exact absurd (((s.beginStep rnd).sameBut_waitRecheck x .fault (by decide)).trans hf) faulted
  · obtain same | ⟨kind, known, rfl⟩ := fault_of_exec run
    · exact absurd (same.trans hf) faulted
    · obtain ⟨word, -⟩ := lookup_sound (decodeWord_eq_ok.1 decoded)
      have address : (s.fetched rnd).pc - 2 = s.pc := BitVec.add_sub_cancel ..
      rw [word, address]
      exact ⟨hw, kind, List.mem_cons_of_mem _ known, rfl⟩
  · exact ⟨hw, .unknownOpcode, List.mem_cons_self, rfl⟩

/-- Settles O8: the word is the fetched one; the instruction runs from the advanced state; and a faulted end has the
advanced PC, as faults are precise. -/
theorem stepFetchesThenAdvances : Obligations.StepFetchesThenAdvances := by
  intro rnd s hf hw w
  have fetched : w = s.fetchWord := by
    rw [fetchIsBigEndian s, s.memRead_eq_of_mod_eq (Nat.mod_mod s.pc.toNat 4096).symm,
      s.memRead_eq_of_mod_eq (Nat.mod_mod (s.pc.toNat + 1) 4096).symm]
  rw [fetched]
  refine ⟨fun i decoded => stepWith_of_decoded rnd hf hw decoded, fun e unknown => ?_, fun t h faulted => ?_⟩
  · exact ⟨_, stepWith_of_unknown rnd hf hw unknown, Option.some_ne_none _⟩
  · obtain ⟨-, kind, -, rfl⟩ := faultsArePrecise rnd s t hf h faulted
    rfl

/-! ### Skips and the end of a program -/

/-- Settles O24: each of the six, under its condition, is a skip that is taken. -/
theorem skipPassesOverOneWord : Obligations.SkipPassesOverOneWord := by
  intro rnd s i hf hw decoded condition
  have taken {c : Bool} (h : c = true) : (Host.Outcome.next ((s.fetched rnd).skipIf c) : Host.Outcome _ Fault Refusal) =
      .next ((s.fetched rnd).skipIf true) := by rw [h]
  have skips : exec i (s.fetched rnd) = .next ((s.fetched rnd).skipIf true) := by
    obtain ⟨x, kk, rfl, h⟩ | ⟨x, kk, rfl, h⟩ | ⟨x, y, n, rfl, h⟩ | ⟨x, y, n, rfl, h⟩ | ⟨x, k, rfl, h, pressed⟩ |
      ⟨x, k, rfl, h, pressed⟩ := condition
    · exact taken (beq_iff_eq.2 h)
    · exact taken (bne_iff_ne.2 h)
    · exact taken (beq_iff_eq.2 h)
    · exact taken (bne_iff_ne.2 h)
    · exact (exec_skpVx_of_key (s := s.fetched rnd) h).trans (taken pressed)
    · exact (exec_sknpVx_of_key (s := s.fetched rnd) h).trans (taken (Bool.not_eq_true' _ ▸ pressed))
  exact ⟨_, (stepWith_of_decoded rnd hf hw decoded).trans skips, BitVec.add_assoc .., hf⟩

/-- The word of a JP, as the OR that R120 writes. -/
theorem encode_jpNnn (nnn : Addr) : encode (.jpNnn nnn) = 0x1000 ||| nnn.setWidth 16 :=
  packNNN_eq_shiftLeft_or 0x1 nnn

/-- Settles O60: the word is that of a jump to PC itself, so the step ends where it began. -/
theorem endOfProgramIsAFixedPoint : Obligations.EndOfProgramIsAFixedPoint := by
  intro rnd s e atEnd
  obtain ⟨hf, hw, pc, word⟩ := atEnd
  have decoded : decodeWord s.cfg.strict59 s.fetchWord = .ok (.jpNnn e) := by
    rw [word, ← encode_jpNnn]
    exact decodeWord_encode rfl
  have stays : exec (.jpNnn e) (s.fetched rnd) = .next (s.beginStep rnd) :=
    congrArg (fun target => Host.Outcome.next ((s.beginStep rnd).writePC target)) pc.symm
  exact ⟨_, (stepWith_of_decoded rnd hf hw decoded).trans stays, s.sameBut_beginStep rnd, hf, hw, pc, word⟩

end Sys2Proof.Machine
end

section
/-! Proofs about the invariant (`State.Inv`): it holds of the constructed core, every step keeps it, and so does every
schedule of the host's transactions. -/

namespace Sys2Proof.Machine

/-! ### The changes the invariant survives -/

/-- The invariant speaks of six fields; a change that keeps them, or ends a wait, keeps it. -/
theorem State.Inv.transfer {s t : State} (inv : s.Inv) (cfg : t.cfg = s.cfg) (mem : t.mem = s.mem)
    (stack : t.stack = s.stack) (sp : t.sp = s.sp) (fault : t.fault = s.fault) (wait : s.fault ≠ none → t.wait = none) :
    t.Inv where
  legal := cfg ▸ inv.legal
  memory := by rw [cfg, mem]; exact inv.memory
  stackSize := by rw [stack, cfg]; exact inv.stackSize
  spBound := by rw [sp, cfg]; exact inv.spBound
  registersValid := fun r hr => inv.registersValid r (fault ▸ hr)
  faultNotWaiting := fun hf => wait (fault ▸ hf)

/-- Recording a fault other than `InvalidRegister` on a core that does not wait keeps the invariant. -/
theorem State.Inv.record {s : State} (inv : s.Inv) (hw : s.wait = none) {r : FaultRecord}
    (kind : r.kind ≠ .invalidRegister) : State.Inv { s with fault := some r } where
  legal := inv.legal
  memory := inv.memory
  stackSize := inv.stackSize
  spBound := inv.spBound
  registersValid := fun _ hr => Option.some.inj hr ▸ kind
  faultNotWaiting := fun _ => hw

/-- Writing bytes to memory keeps the invariant, as it keeps the canonical form. -/
theorem State.Inv.memWriteList {s : State} (inv : s.Inv) (a : Nat) (bs : List Byte) : (s.memWriteList a bs).Inv where
  legal := by rw [State.cfg_memWriteList]; exact inv.legal
  memory := State.memWriteList_wf inv.memory a bs
  stackSize := by rw [State.stack_memWriteList, State.cfg_memWriteList]; exact inv.stackSize
  spBound := by rw [State.sp_memWriteList, State.cfg_memWriteList]; exact inv.spBound
  registersValid := by rw [State.fault_memWriteList]; exact inv.registersValid
  faultNotWaiting := by rw [State.fault_memWriteList, State.wait_memWriteList]; exact inv.faultNotWaiting

theorem State.Inv.stepI {s : State} (inv : s.Inv) (x : Reg) : (s.stepI x).Inv := by
  rw [State.stepI_eq]
  exact inv.transfer rfl rfl rfl rfl rfl inv.faultNotWaiting

/-- A call with room leaves the number of entries and counts one address more. -/
theorem State.Inv.called {s : State} (inv : s.Inv) (room : s.sp ≠ s.cfg.stackDepth) (nnn : Addr) :
    (s.called nnn).Inv where
  legal := inv.legal
  memory := inv.memory
  stackSize := (List.length_set ..).trans inv.stackSize
  spBound := Nat.lt_of_le_of_ne inv.spBound room
  registersValid := inv.registersValid
  faultNotWaiting := inv.faultNotWaiting

theorem State.Inv.returned {s : State} (inv : s.Inv) : s.returned.Inv where
  legal := inv.legal
  memory := inv.memory
  stackSize := inv.stackSize
  spBound := (Nat.sub_le _ _).trans inv.spBound
  registersValid := inv.registersValid
  faultNotWaiting := inv.faultNotWaiting

/-! ### Steps -/

/-- Every instruction that runs on an unfaulted core with no wait keeps the invariant: CALL and RET move the stack, two
instructions store bytes, a raised fault is a record, and no other touches what the invariant speaks of. -/
theorem inv_of_exec {i : Instr} {s t : State} (inv : s.Inv) (hf : s.fault = none) (hw : s.wait = none)
    (h : exec i s = .next t) : t.Inv := by
  obtain fault | ⟨kind, known, rfl⟩ := fault_of_exec h
  · cases i with
    | callNnn nnn =>
      obtain raised | ⟨room, called⟩ := exec_callNnn_cases nnn s
      · obtain rfl := raiseBy_eq_next.1 (raised.symm.trans h)
        exact inv.record hw (by simp)
      · obtain rfl := Host.Outcome.next.inj (called.symm.trans h)
        exact inv.called room nnn
    | ret =>
      obtain raised | ⟨-, returned⟩ := exec_ret_cases s
      · obtain rfl := raiseBy_eq_next.1 (raised.symm.trans h)
        exact inv.record hw (by simp)
      · obtain rfl := Host.Outcome.next.inj (returned.symm.trans h)
        exact inv.returned
    | ldBVx x =>
      obtain rfl := Host.Outcome.next.inj h
      exact inv.memWriteList _ _
    | ldMIVx x =>
      obtain rfl := Host.Outcome.next.inj h
      exact (inv.memWriteList _ _).stepI x
    | _ =>
      obtain ⟨-, -, -, -, stack, -, -, mem, -, -, -, cfg, -⟩ := piecesAreWrittenOnlyByTheirInstructions _ s t h
      obtain ⟨stack, sp⟩ := stack (by simp)
      exact inv.transfer cfg (mem (by simp)) stack (sp (by simp)) fault (absurd hf)
  · refine inv.record hw (fun e => ?_)
    simp only at e
    simp [e] at known

theorem State.Inv.beginStep {s : State} (inv : s.Inv) (rnd : Byte) : (s.beginStep rnd).Inv :=
  inv.transfer rfl rfl rfl rfl rfl inv.faultNotWaiting

theorem State.Inv.fetched {s : State} (inv : s.Inv) (rnd : Byte) : (s.fetched rnd).Inv :=
  inv.transfer rfl rfl rfl rfl rfl inv.faultNotWaiting

/-- A step under any random byte keeps the invariant. -/
theorem inv_of_stepWith {rnd : Byte} {s t : State} (inv : s.Inv) (h : stepWith rnd s = .next t) : t.Inv := by
  obtain ⟨hf, ⟨x, -, rfl⟩ | ⟨hw, i, -, run⟩ | ⟨hw, rfl⟩⟩ := stepWith_cases h
  · have frame := (s.beginStep rnd).sameBut_waitRecheck x
    refine (inv.beginStep rnd).transfer (frame .cfg (by decide)) ?_ (frame .stack (by decide)) (frame .sp (by decide))
      (frame .fault (by decide)) (absurd hf)
    unfold State.waitRecheck
    split <;> rfl
  · exact inv_of_exec (inv.fetched rnd) hf hw run
  · exact (inv.fetched rnd).record hw (by simp)

/-- Settles O14: a step is one under the next free byte. -/
theorem everyStepKeepsTheInvariant : Obligations.EveryStepKeepsTheInvariant := by
  intro s t inv h
  have counted : State.Inv { s with rndIndex := s.rndIndex + 1 } :=
    inv.transfer rfl rfl rfl rfl rfl inv.faultNotWaiting
  exact inv_of_stepWith counted ((step_eq_stepWith s).symm.trans h)

/-! ### Construction and schedules -/

/-- The constructed core lists no memory, holds no address and has no fault. -/
theorem State.inv_resetWith {c : Config} (legal : c.Legal) : (State.resetWith c).Inv where
  legal := legal
  memory := State.resetWith_wf c
  stackSize := List.length_replicate
  spBound := Nat.zero_le _
  registersValid := fun _ hr => by cases hr
  faultNotWaiting := fun _ => rfl

/-- Settles O15: State.reset is the constructed core under one legal configuration. -/
theorem invariantHoldsAtReset : Obligations.InvariantHoldsAtReset :=
  ⟨fun _ => State.inv_resetWith, State.inv_resetWith (by decide : Config.conventional.Legal)⟩

/-- A load that answers was admitted, so it began in the constructed core. -/
theorem load_eq_next {rom : List Byte} {s t : State} (h : load rom s = .next t) :
    s = State.resetWith s.cfg ∧
      t = if rom.length > 3584 then { s with loadOpen := false, fault := some ⟨.romTooLarge, 0, 0x200⟩ }
        else { (s.memWriteList 0x200 rom) with loadOpen := false } := by
  by_cases reset : s = State.resetWith s.cfg
  · exact ⟨reset, (Host.Outcome.next.inj ((load_of_admitted (decide_eq_true reset) rom).symm.trans h)).symm⟩
  · cases (load_of_ne_reset reset rom).symm.trans h

theorem inv_of_load {rom : List Byte} {s t : State} (inv : s.Inv) (h : load rom s = .next t) : t.Inv := by
  obtain ⟨reset, rfl⟩ := load_eq_next h
  have closed : State.Inv { s with loadOpen := false } := inv.transfer rfl rfl rfl rfl rfl inv.faultNotWaiting
  split
  · exact closed.record (congrArg State.wait reset) (by simp)
  · exact (inv.memWriteList 0x200 rom).transfer rfl rfl rfl rfl rfl (inv.memWriteList 0x200 rom).faultNotWaiting

theorem tick_eq_next {s t : State} (h : tick s = .next t) : s.fault = none ∧ t = s.ticked := by
  cases hf : s.fault with
  | some r => cases (tick_of_faulted hf).symm.trans h
  | none => exact ⟨rfl, (Host.Outcome.next.inj ((tick_of_running hf).symm.trans h)).symm⟩

theorem inv_of_transact {tr : Transaction} {s t : State} (inv : s.Inv) (h : transact tr s = .next t) : t.Inv := by
  cases tr with
  | load rom => exact inv_of_load inv h
  | step rnd => exact inv_of_stepWith inv h
  | tick =>
    obtain ⟨-, rfl⟩ := tick_eq_next h
    exact inv.transfer rfl rfl rfl rfl rfl inv.faultNotWaiting
  | setKey k p =>
    obtain ⟨_, rfl⟩ := setKey_eq_next.1 h
    exact inv.transfer rfl rfl rfl rfl rfl inv.faultNotWaiting

/-- What every transaction keeps, every schedule keeps: by induction on its transactions. -/
theorem transactAll_induction {P : State → Prop} (keeps : ∀ tr s t, P s → transact tr s = .next t → P t)
    {trs : List Transaction} {s t : State} (holds : P s) (h : transactAll trs s = .next t) : P t := by
  induction trs generalizing s with
  | nil => exact Host.Outcome.next.inj h ▸ holds
  | cons tr trs ih =>
    unfold transactAll at h
    cases first : transact tr s with
    | next u =>
      rw [first] at h
      exact ih (keeps tr s u holds first) h
    | fault f =>
      rw [first] at h
      cases h
    | refused r =>
      rw [first] at h
      cases h

/-- Settles O16: each transaction keeps the invariant, so a schedule does. -/
theorem everyScheduleKeepsTheInvariant : Obligations.EveryScheduleKeepsTheInvariant :=
  fun _ _ _ inv h => transactAll_induction (fun _ _ _ => inv_of_transact) inv h

/-! ### load is admitted once -/

theorem loadOpen_of_stepWith {rnd : Byte} {s t : State} (h : stepWith rnd s = .next t) : t.loadOpen = false := by
  obtain ⟨-, ⟨x, -, rfl⟩ | ⟨-, i, -, run⟩ | ⟨-, rfl⟩⟩ := stepWith_cases h
  · exact (s.beginStep rnd).sameBut_waitRecheck x .loadOpen (by decide)
  · obtain ⟨-, -, -, -, -, -, -, -, -, -, -, -, -, -, loadOpen⟩ := piecesAreWrittenOnlyByTheirInstructions i _ t run
    exact loadOpen
  · rfl

/-- A load, a step or a tick closes `load`. -/
theorem transact_closes_load {tr : Transaction} {s t : State} (notKey : ∀ k p, tr ≠ .setKey k p)
    (h : transact tr s = .next t) : t.loadOpen = false := by
  cases tr with
  | load rom =>
    obtain ⟨-, rfl⟩ := load_eq_next h
    split <;> rfl
  | step rnd => exact loadOpen_of_stepWith h
  | tick =>
    obtain ⟨-, rfl⟩ := tick_eq_next h
    rfl
  | setKey k p => exact absurd rfl (notKey k p)

/-- No transaction opens `load` again: `set_key` leaves the field, and the others close it. -/
theorem transact_keeps_load_closed (tr : Transaction) (s t : State) (closed : s.loadOpen = false)
    (h : transact tr s = .next t) : t.loadOpen = false := by
  cases tr with
  | setKey k p =>
    obtain ⟨_, rfl⟩ := setKey_eq_next.1 h
    exact closed
  | _ => exact transact_closes_load (by simp) h

/-- Settles O59: the first transaction closes `load`, the schedule keeps it closed, and the constructed core, the one
state that admits it, has it open. -/
theorem loadIsAdmittedOnce : Obligations.LoadIsAdmittedOnce := by
  intro tr rom s t notKey first trs u rest
  have closed : u.loadOpen = false :=
    transactAll_induction transact_keeps_load_closed (transact_closes_load notKey first) rest
  refine load_of_ne_reset (fun reset => ?_) rom
  rw [reset] at closed
  cases closed

end Sys2Proof.Machine
end

section
/-! Proofs about the constructed core (10_state.md 7, 20_memory.md 8): the reset value of every piece (R40). -/

namespace Sys2Proof.Machine

/-- A byte of the glyph table. -/
theorem resetByte_glyph (c : Config) {k : Nat} (hk : k < 80) : resetByte c (0x050 + k) = c.glyphs[k] := by
  have inside : Config.fontBase ≤ 0x050 + k ∧ 0x050 + k < Config.fontBase + 80 := by
    simp only [Config.fontBase]
    omega
  simp only [resetByte, dif_pos inside, Config.fontBase, Nat.add_sub_cancel_left]

theorem resetByte_outside (c : Config) {a : Nat} (h : a < 0x050 ∨ 0x0A0 ≤ a) : resetByte c a = 0 := by
  refine dif_neg fun inside => ?_
  simp only [Config.fontBase] at inside
  omega

/-- The constructed core reads the reset byte at every address, as its memory lists nothing. -/
theorem State.memRead_resetWith (c : Config) {a : Nat} (h : a < 4096) :
    (State.resetWith c).memRead a = resetByte c a :=
  congrArg (resetByte c) (Nat.mod_eq_of_lt h)

/-- Writing what unlisted addresses already read as changes nothing. -/
theorem State.memWriteList_of_reset_bytes {s : State} (empty : s.mem = []) {a : Nat} {bs : List Byte}
    (h : ∀ k b, bs[k]? = some b → b = resetByte s.cfg ((a + k) % 4096)) : s.memWriteList a bs = s := by
  induction bs generalizing a with
  | nil => rfl
  | cons b bs ih =>
    have first : s.memWrite a b = s := by
      have byte : b = resetByte s.cfg (a % Config.memSize) := h 0 b rfl
      rw [State.memWrite, Memory.write, if_pos byte, empty, Memory.erase, List.filter_nil, ← empty]
    rw [State.memWriteList, first]
    exact ih fun k c hc => by
      rw [Nat.add_right_comm a 1 k]
      exact h (k + 1) c hc

/-- Settles O17: the pieces one by one; the glyph table is read from `GLYPHS`, the rest of memory is 0. -/
theorem resetStateOfTheCore : Obligations.ResetStateOfTheCore := by
  intro c s
  refine ⟨rfl, fun r => ?_, rfl, rfl, List.length_replicate, fun w => List.eq_of_mem_replicate, rfl, rfl,
    Framebuffer.pixel_clear, fun k => ?_, rfl, fun k => ?_, rfl, fun d j => ?_, fun a bound outside => ?_, ?_⟩
  · simp [s, State.readV, State.resetWith]
  · simp [s, State.pressed, State.resetWith]
  · simp [s, State.resetWith]
  · rw [State.memRead_resetWith c (by omega), Nat.add_assoc, resetByte_glyph c (by omega)]
  · rw [State.memRead_resetWith c bound, resetByte_outside c outside]
  · refine State.memWriteList_of_reset_bytes rfl fun k b hb => ?_
    obtain ⟨bound, rfl⟩ := List.getElem?_eq_some_iff.1 hb
    rw [Vector.length_toList] at bound
    rw [Vector.getElem_toList, Nat.mod_eq_of_lt (by simp only [Config.fontBase]; omega)]
    exact (resetByte_glyph c bound).symm

end Sys2Proof.Machine
end
